-- ==== Sys2Proof/Word.lean ====
section
/-! DEFINITION. The word types of LCDC: bytes, operation words, delay requests (R11, R35, R80). -/

namespace Sys2Proof

/-- A command byte, a data byte, a status byte (R11), or what an 8-line bus carries. -/
abbrev Byte := BitVec 8

/-- Half a byte (R13); what a 4-line bus carries. -/
abbrev Nibble := BitVec 4

/-- An operation word `op_word[15:0]` (R33, R80). -/
abbrev Word := BitVec 16

/-- A number of microseconds on `dly_us[15:0]` (R35): at most 65535. -/
abbrev Micros := BitVec 16

end Sys2Proof
end

