-- ==== Sys2Proof/Config.lean ====
section
/-! DEFINITION. The configuration straps `CFG` (R6 to R10, R24) and the free value of the model (R23). -/

namespace Sys2Proof

/-- `CFG.BUS_WIDTH` (R6): the number of data lines between LCDC and the device. -/
inductive BusWidth where
  | four
  | eight
deriving DecidableEq, Repr

/-- The configuration record `CFG` (R24): constants of the binding, written by no operation and not changed by
reset. Every timing parameter is a number of microseconds of at most 65535 (R10). -/
structure Cfg where
  /-- `BUS_WIDTH` (R6). -/
  busWidth : BusWidth
  /-- `CAN_READ` (R7): the RW line exists and the data lines can be sampled. -/
  canRead : Bool
  /-- `HAS_BACKLIGHT` (R8): the BL line exists. -/
  hasBacklight : Bool
  /-- `ROWS` (R9). -/
  rows : Nat
  /-- `COLS` (R9). -/
  cols : Nat
  /-- `T_PULSE` (R10): how long EN is held high. -/
  tPulse : Micros
  /-- `T_SHORT` (R10): the short tier. -/
  tShort : Micros
  /-- `T_LONG` (R10): the long tier. -/
  tLong : Micros
  /-- `T_INIT1` (R10): after the first function-set transfer of INIT. -/
  tInit1 : Micros
  /-- `T_INIT2` (R10): after the second. -/
  tInit2 : Micros
  /-- `T_INIT3` (R10): after the third. -/
  tInit3 : Micros
  /-- `T_POWERON` (R10, R204): a duty of the host; no rule of LCDC reads it (log 14). -/
  tPowerOn : Micros
deriving DecidableEq, Repr

/-- The configuration of `State.reset`, written `8/0/1/2x16` in spec/95, with the default timing of R10's table.
DESIGN CHOICE: the spec leaves every strap to the binding. Unsafe for a claim that names it; see log 1. -/
def Cfg.default : Cfg :=
  { busWidth := .eight, canRead := false, hasBacklight := true, rows := 2, cols := 16
    tPulse := 1, tShort := 50, tLong := 2000, tInit1 := 4500, tInit2 := 150, tInit3 := 150, tPowerOn := 40000 }

/-- What the device puts on the data lines at a `Sample` for which neither `State.din` nor `State.dinCycle` holds an answer:
a FREE VALUE, one for each number of such samples taken before. Nothing constrains it (R23; U10 of spec/93); see log 3. Safe. -/
opaque Config.freeSample : Nat → Byte

end Sys2Proof
end

