-- ==== Sys2Proof/Syntax.lean ====
section
/-! DEFINITION. The operations of LCDC (R81), one constructor for each row of spec/opcode_table.json. -/

namespace Sys2Proof

/-- The eleven operations with their operands (R81, R82). Each operand has exactly the width of its field, so no term
carries bits that the word cannot hold; a one-bit operand is a `Bool`, `true` for bit value 1. -/
inductive Instr where
  /-- CLEAR (R151). -/
  | clear
  /-- HOME (R152). -/
  | home
  /-- ENTRY (R153): `dir` 0 left, 1 right; `sh` 0 no-shift, 1 shift. -/
  | entry (dir sh : Bool)
  /-- DISPLAY (R154): `on`, `cur`, `blk`, each 0 off, 1 on. -/
  | display (on cur blk : Bool)
  /-- SHIFT (R155): `tgt` 0 cursor, 1 display; `rl` 0 left, 1 right. -/
  | shift (tgt rl : Bool)
  /-- INIT (R130): `n` 0 one line, 1 two lines; `f` 0 5x8, 1 5x10. -/
  | init (n f : Bool)
  /-- SETCG (R156): a CGRAM address. -/
  | setcg (addr6 : BitVec 6)
  /-- SETDD (R157): a DDRAM address. -/
  | setdd (addr7 : BitVec 7)
  /-- POS (R158): row and column, zero-based. -/
  | pos (row : Nibble) (col : Byte)
  /-- WRITE (R159): a data byte. -/
  | write (data : Byte)
  /-- BACKLIGHT (R161): 0 off, 1 on. -/
  | backlight (on : Bool)
deriving DecidableEq, Repr

end Sys2Proof
end

