-- ==== Sys2Proof/WellFormed.lean ====
section
/-! DEFINITION. Which configurations are legal (R9, R10) and which operations a configuration has (R8, R93). -/

namespace Sys2Proof

/-- R9: one row of at most 80 columns, or two of at most 40. -/
def Cfg.geometryOk (c : Cfg) : Bool :=
  (c.rows == 1 && (1 ≤ c.cols && c.cols ≤ 80)) || (c.rows == 2 && (1 ≤ c.cols && c.cols ≤ 40))

/-- R10: the long tier is longer than the short one, and an enable pulse lasts at least one microsecond. -/
def Cfg.timingOk (c : Cfg) : Bool :=
  c.tShort.toNat < c.tLong.toNat && 1 ≤ c.tPulse.toNat

/-- A legal configuration (R9, R10). The other limits hold by the fields' types (R6, R7, R8, R35). -/
def Cfg.wf (c : Cfg) : Bool :=
  c.geometryOk && c.timingOk

/-- Whether the operation is in the operation set of a configuration: BACKLIGHT is only with the BL line (R8, check 2
of R93). Every other well-formedness condition of R82 holds by the operands' types. -/
def Instr.wf (c : Cfg) : Instr → Bool
  | .backlight _ => c.hasBacklight
  | .clear => true
  | .home => true
  | .entry _ _ => true
  | .display _ _ _ => true
  | .shift _ _ => true
  | .init _ _ => true
  | .setcg _ => true
  | .setdd _ => true
  | .pos _ _ => true
  | .write _ => true

end Sys2Proof
end

