-- ==== Sys2Proof/Decode.lean ====
section
/-! DEFINITION. The operation word OP16 (R80 to R82, R93): decoder, encoder, the reading of an opcode-table word, the
assembler syntax (R97) and the pseudo-operation WRITESTR (R98). -/

namespace Sys2Proof

/-- `W[15:12]`, the operation code (R80). -/
def opcField (w : Word) : BitVec 4 := w.extractLsb' 12 4

/-- `W[11:8]`, operand A (R80). -/
def aField (w : Word) : Nibble := w.extractLsb' 8 4

/-- `W[7:0]`, operand B (R80). -/
def bField (w : Word) : Byte := w.extractLsb' 0 8

/-- A word with the three given fields (R80, R97): `opc << 12 | a << 8 | b`. -/
def mkWord (opc : BitVec 4) (a : Nibble) (b : Byte) : Word :=
  opc.setWidth 16 <<< 12 ||| a.setWidth 16 <<< 8 ||| b.setWidth 16

/-- A bit as a byte (`zext_8`, R13). -/
def bitByte (b : Bool) : Byte := (BitVec.ofBool b).setWidth 8

/-- `RESMASK` (R93, check 4): the bits of `b` that must be zero; none where the operation code is reserved (check 1). -/
def resMask (opc : BitVec 4) : Option Byte :=
  match opc.toNat with
  | 1 => some 0xFF
  | 2 => some 0xFF
  | 3 => some 0xFC
  | 4 => some 0xF8
  | 5 => some 0xF3
  | 6 => some 0xF3
  | 7 => some 0xC0
  | 8 => some 0x80
  | 9 => some 0x00
  | 10 => some 0x00
  | 11 => some 0xFE
  | _ => none

/-- Why a word is no operation: which check of R93 it fails. (Check 2, the BL line, depends on `CFG` and stands in the
meaning of BACKLIGHT; R185 says the order among the checks is not observable. Log 10.) -/
inductive DecodeError where
  /-- Check 1: operation code 0x0 or 0xC to 0xF. -/
  | reservedOpcode
  /-- Check 3: `a` is not 0 outside POS. -/
  | operandA
  /-- Check 4: a reserved bit of `b` is set. -/
  | reservedBits
deriving DecidableEq, Repr

/-- The operation with the given fields, by the operand layout of R82. -/
def operation (opc : BitVec 4) (a : Nibble) (b : Byte) : Option Instr :=
  match opc.toNat with
  | 1 => some .clear
  | 2 => some .home
  | 3 => some (.entry (b.getLsbD 1) (b.getLsbD 0))
  | 4 => some (.display (b.getLsbD 2) (b.getLsbD 1) (b.getLsbD 0))
  | 5 => some (.shift (b.getLsbD 3) (b.getLsbD 2))
  | 6 => some (.init (b.getLsbD 3) (b.getLsbD 2))
  | 7 => some (.setcg (b.extractLsb' 0 6))
  | 8 => some (.setdd (b.extractLsb' 0 7))
  | 9 => some (.pos a b)
  | 10 => some (.write b)
  | 11 => some (.backlight (b.getLsbD 0))
  | _ => none

/-- The decoder: checks 1, 3 and 4 of R93 in that order, then the operands. Total on every word. -/
def decode (w : Word) : Except DecodeError Instr :=
  match resMask (opcField w), operation (opcField w) (aField w) (bField w) with
  | some m, some i =>
    if opcField w ≠ 9 ∧ aField w ≠ 0 then .error .operandA
    else if bField w &&& m ≠ 0 then .error .reservedBits
    else .ok i
  | _, _ => .error .reservedOpcode

/-- The operation code of an operation (R81). -/
def Instr.opc : Instr → BitVec 4
  | .clear => 0x1
  | .home => 0x2
  | .entry _ _ => 0x3
  | .display _ _ _ => 0x4
  | .shift _ _ => 0x5
  | .init _ _ => 0x6
  | .setcg _ => 0x7
  | .setdd _ => 0x8
  | .pos _ _ => 0x9
  | .write _ => 0xA
  | .backlight _ => 0xB

/-- Operand A of an operation: the row of POS, 0 elsewhere (R82). -/
def Instr.fieldA : Instr → Nibble
  | .pos row _ => row
  | .clear => 0
  | .home => 0
  | .entry _ _ => 0
  | .display _ _ _ => 0
  | .shift _ _ => 0
  | .init _ _ => 0
  | .setcg _ => 0
  | .setdd _ => 0
  | .write _ => 0
  | .backlight _ => 0

/-- Operand B of an operation (R82, R97). -/
def Instr.fieldB : Instr → Byte
  | .clear => 0
  | .home => 0
  | .entry dir sh => bitByte dir <<< 1 ||| bitByte sh
  | .display on cur blk => bitByte on <<< 2 ||| bitByte cur <<< 1 ||| bitByte blk
  | .shift tgt rl => bitByte tgt <<< 3 ||| bitByte rl <<< 2
  | .init n f => bitByte n <<< 3 ||| bitByte f <<< 2
  | .setcg addr6 => addr6.setWidth 8
  | .setdd addr7 => addr7.setWidth 8
  | .pos _ col => col
  | .write data => data
  | .backlight on => bitByte on

/-- The encoder (R80 to R82). -/
def encode (i : Instr) : Word := mkWord i.opc i.fieldA i.fieldB

/-- What the decoder reads from an opcode-table word: `nbits` bits of `w`, the bits above them zero. -/
def decodeTableWord (nbits w : Nat) : Option Instr :=
  match decode (BitVec.ofNat 16 (w % 2 ^ nbits)) with
  | .ok i => some i
  | .error _ => none

/-- The words the host issues for WRITESTR (R98): one WRITE for each character, in order. -/
def writeStr (chars : List Byte) : List Word := chars.map fun c => encode (.write c)

/-- A keyword of the assembler syntax: the first name for bit value 0, the second for 1. -/
def keyword (zero one : String) (b : Bool) : String := if b then one else zero

/-- An operation in the assembler syntax of R97, numbers in decimal. -/
def Instr.asm : Instr → String
  | .clear => "CLEAR"
  | .home => "HOME"
  | .entry dir sh => "ENTRY " ++ keyword "left" "right" dir ++ ", " ++ keyword "noshift" "shift" sh
  | .display on cur blk => "DISPLAY " ++ keyword "off" "on" on ++ ", " ++ keyword "nocursor" "cursor" cur ++ ", "
      ++ keyword "noblink" "blink" blk
  | .shift tgt rl => "SHIFT " ++ keyword "cursor" "display" tgt ++ ", " ++ keyword "left" "right" rl
  | .init n f => "INIT " ++ keyword "1" "2" n ++ ", " ++ keyword "5x8" "5x10" f
  | .setcg addr6 => "SETCG " ++ toString addr6.toNat
  | .setdd addr7 => "SETDD " ++ toString addr7.toNat
  | .pos row col => "POS " ++ toString row.toNat ++ ", " ++ toString col.toNat
  | .write data => "WRITE " ++ toString data.toNat
  | .backlight on => "BACKLIGHT " ++ keyword "off" "on" on

end Sys2Proof
end

