-- ==== Sys2Proof/Machine/State.lean ====
section
/-! DEFINITION. The state of LCDC (R20 to R36), of its environment, and of the record that claims are stated over. -/

namespace Sys2Proof.Machine

/-- The pin register `PINS` (R21). -/
structure Pins where
  /-- RS: 0 command (or status read), 1 data. -/
  rs : Bool
  /-- EN: 1 high, 0 low (idle). -/
  en : Bool
  /-- RW: 0 write direction, 1 read direction. The constant 0 without the line (R22; log 17). -/
  rw : Bool
  /-- The value driven on the data lines: `CFG.BUS_WIDTH` bits, the bits above them 0 (log 8). -/
  dout : Byte
  /-- BL: 1 on. The constant 0 without the line (R190; log 17). -/
  bl : Bool
deriving DecidableEq, Repr

/-- `PINS` after reset (R32). -/
def Pins.reset : Pins := { rs := false, en := false, rw := false, dout := 0, bl := false }

/-- An event (R14, R31). A value on the data lines is held in a byte; on a 4-line bus its upper half is 0 (log 8). -/
inductive Event where
  /-- `RS=b` -/
  | rs (b : Bool)
  /-- `EN=b` -/
  | en (b : Bool)
  /-- `RW=b` -/
  | rw (b : Bool)
  /-- `D=v` -/
  | d (v : Byte)
  /-- `IN->v` -/
  | inp (v : Byte)
  /-- `DLY(n)` -/
  | dly (n : Micros)
  /-- `BL=b` -/
  | bl (b : Bool)
deriving DecidableEq, Repr

/-- The delay tier of a transfer (R26, R141). -/
inductive Tier where
  | short
  | long
deriving DecidableEq, Repr

/-- The completion status `STATUS` (R28, R180). -/
inductive Status where
  | ok
  | invalidArgument
  | illegalOperation
deriving DecidableEq, Repr

/-- The operands of one byte transfer `XFER(rs, byte, tier)` (R114). -/
structure Xfer where
  rs : Bool
  byte : Byte
  tier : Tier
deriving DecidableEq, Repr

/-- The sequencer position `SEQ` between two steps (R26, R27). An operation that needs no answer of the device runs in
one step, so the only other place where a step ends is in the busy-flag poll, before the next status read (log 2). -/
inductive Seq where
  /-- `IDLE`: `op_ready = 1`. -/
  | idle
  /-- In the loop of `BUSYPOLL` (R142), after a status read that was busy; `rest` are the transfers the operation has
  still to make after this one. -/
  | polling (rest : List Xfer)
deriving DecidableEq, Repr

/-- What the outside may do out of turn while an operation is in flight (log 5). -/
inductive Upset where
  /-- `rst` is asserted (R201). -/
  | rst
  /-- The host raises `op_valid` although `op_ready = 0`: its duty of R206 is broken. -/
  | opValid
deriving DecidableEq, Repr

/-- The place of one micro-step in the sequence of an operation: the event primitives of R14 and the writes of the
transient latches of R26 between them. -/
inductive Prim where
  /-- `BYTE <- b`, no event. -/
  | loadByte (b : Byte)
  /-- `TIER <- t`, no event. -/
  | loadTier (t : Tier)
  | setRS (b : Bool)
  | setEN (b : Bool)
  | setRW (b : Bool)
  | setBL (b : Bool)
  /-- `Drive(BYTE)`, on 8 lines. -/
  | driveByte
  /-- `Drive(BYTE[7:4])`, on 4 lines. -/
  | driveHigh
  /-- `Drive(BYTE[3:0])`, on 4 lines. -/
  | driveLow
  /-- The request of `Delay(n)`: the event, `dly_us` and `dly_req` (R35). -/
  | request (n : Micros)
  /-- The request of `Delay(T_tier)` for the latched `TIER` (R141). -/
  | requestTier
  /-- The answer `dly_done` of the timing capability, no event (R35). -/
  | await
  /-- `S <- Sample()`, on 8 lines (R144). -/
  | sampleByte
  /-- `RDH <- Sample()`, on 4 lines (R145). -/
  | sampleHigh
  /-- `S <- RDH ++ Sample()`, on 4 lines (R145). -/
  | sampleLow
  /-- The exit test of the poll loop (R142), no event; `rest` are the transfers after this one. -/
  | pollTest (rest : List Xfer)
  /-- `complete(st)` (R14), no event. -/
  | complete (st : Status)
deriving DecidableEq, Repr

/-- Why a run stops. -/
inductive Fault where
  /-- Raised by the sequencer when the host raises `op_valid` while `op_ready = 0` (R206; U2 of spec/93): what LCDC does
  then is undefined, and the rule asks for a fault of the run. Safe. -/
  | opWhileBusy
deriving DecidableEq, Repr

/-- Why an operation has no meaning. -/
inductive Refusal where
  /-- Raised by an arm of `exec` whose operation has no meaning yet. No arm raises it: every operation has one. Safe. -/
  | notModelled (mnemonic : String)
deriving DecidableEq, Repr

/-- The whole state: LCDC's configuration and state, then the data of its environment, then the record. -/
structure State where
  /-- `CFG` (R24). -/
  cfg : Cfg
  /-- `PINS` (R21). -/
  pins : Pins
  /-- `SEQ` (R26, R27). -/
  seq : Seq
  /-- `OPR` (R26): the accepted operation word. Between operations it, `BYTE` and `TIER` hold what the last
  operation left, and `RDH` is 0 after a poll, which the spec leaves open (log 18). -/
  opr : Word
  /-- `BYTE` (R26): the byte being transferred. -/
  byte : Byte
  /-- `TIER` (R26): the tier of the transfer. -/
  tier : Tier
  /-- `RDH` (R26): the high nibble of a status read on 4 lines. -/
  rdh : Nibble
  /-- `S` of `BUSYPOLL` (R95, R142): the status byte last read, inside the poll loop (held there up to the next read, log 18);
  none outside it, since LCDC stores no BF after the loop exits (R29; log 7). -/
  sts : Option Byte
  /-- `STATUS` (R28); held while `done` is 0, when it is not valid (log 19). -/
  status : Status
  /-- `done` (R33): the last step completed an operation. -/
  done : Bool
  /-- `dly_req` (R35). -/
  dlyReq : Bool
  /-- `dly_us` (R35); held after the answer (log 20). -/
  dlyUs : Micros
  /-- Environment: the operation words the host has still to issue, in order (R33, R57; log 4). -/
  host : List Word
  /-- Environment: the next out-of-turn action and after how many more events it comes (R201, R206; log 5). -/
  upset : Option (Nat × Upset)
  /-- Environment: the device's coming answers to `Sample`, in order (R23; log 3). -/
  din : List Byte
  /-- Environment: how many answers were free values, the argument of `Config.freeSample` (log 3). -/
  samples : Nat
  /-- Environment: words that the host issues over and over once `host` is used up (R218: a run may have infinitely many
  operations); none where it stops then (log 4). -/
  hostCycle : List Word
  /-- Environment: answers that the device gives over and over once `din` is used up, such as an unending busy answer
  (R146, R192); none where free values follow (log 3). -/
  dinCycle : List Byte
  /-- Record: the events so far, in order (R31). -/
  trace : List Event
  /-- Record: what the device latched, in order: `(rs, dout)` at each falling edge of EN in write direction (R62, R201;
  log 9). -/
  latched : List (Bool × Byte)
deriving DecidableEq, Repr

/-- What a step of LCDC answers. -/
abbrev Result := Host.Outcome State Fault Refusal

/-- The state after reset (R32, R200) of a binding with configuration `c`, at the start of a run: empty trace, nothing
in the environment's fields. The registers R32 leaves unspecified hold the values of log 6. -/
def State.resetWith (c : Cfg) : State :=
  { cfg := c, pins := Pins.reset, seq := .idle, opr := 0, byte := 0, tier := .short, rdh := 0, sts := none, status := .ok
    done := false, dlyReq := false, dlyUs := 0, host := [], upset := none, din := [], samples := 0, hostCycle := []
    dinCycle := [], trace := [], latched := [] }

/-- The state after reset of the binding of log 1. -/
def State.reset : State := State.resetWith Cfg.default

end Sys2Proof.Machine
end

