-- ==== Sys2Proof/Machine/Flags.lean ====
section
/-! DEFINITION. The two flags of LCDC (R28, R29): the completion status and the busy flag of a status byte. -/

namespace Sys2Proof.Machine

/-- The 2-bit code on `status[1:0]` (R28, R180). -/
def Status.code : Status → BitVec 2
  | .ok => 0
  | .invalidArgument => 1
  | .illegalOperation => 2

/-- BF, bit 7 of a status byte (R29, R95): 1 busy. -/
def busyFlag (s : Byte) : Bool := s.getLsbD 7

/-- The status byte of two samples on 4 lines (R145): `RDH[3:0] ++ lo[3:0]`. -/
def assembleStatus (rdh lo : Nibble) : Byte := rdh.setWidth 8 <<< 4 ||| lo.setWidth 8

end Sys2Proof.Machine
end

