-- ==== Sys2Proof/Machine/Operands.lean ====
section
/-! DEFINITION. The command bytes CMD8 (R83 to R92; their values are the spec's general knowledge, log 16), the row map
(R51), the halves of a byte (R54), the tiers (R141, R147) and the values on the data lines (R34). -/

namespace Sys2Proof.Machine

/-- The class of a command byte (R83, R84). -/
inductive CmdClass where
  | clearDisplay
  | returnHome
  | entryModeSet
  | displayControl
  | shiftCommand
  | functionSet
  | setCgramAddress
  | setDdramAddress
deriving DecidableEq, Repr

/-- The class with a given selecting bit (R84). -/
def classOfBit : Nat → Option CmdClass
  | 0 => some .clearDisplay
  | 1 => some .returnHome
  | 2 => some .entryModeSet
  | 3 => some .displayControl
  | 4 => some .shiftCommand
  | 5 => some .functionSet
  | 6 => some .setCgramAddress
  | 7 => some .setDdramAddress
  | _ => none

/-- The class of a command byte: its most significant 1 bit selects it; 0x00 belongs to none (R83). -/
def classOf (c : Byte) : Option CmdClass :=
  if c = 0 then none else classOfBit (Nat.log2 c.toNat)

/-- Clear display (R85). -/
def clearByte : Byte := 0x01

/-- Return home (R85). -/
def homeByte : Byte := 0x02

/-- Entry mode set (R86). -/
def entryByte (dir sh : Bool) : Byte := 0x04 ||| bitByte dir <<< 1 ||| bitByte sh

/-- Display control (R87). -/
def displayByte (on cur blk : Bool) : Byte := 0x08 ||| bitByte on <<< 2 ||| bitByte cur <<< 1 ||| bitByte blk

/-- Cursor/display shift (R88). -/
def shiftByte (tgt rl : Bool) : Byte := 0x10 ||| bitByte tgt <<< 3 ||| bitByte rl <<< 2

/-- `DL` (R6): 1 on an 8-line bus. -/
def dl : BusWidth → Bool
  | .eight => true
  | .four => false

/-- Function set `FS` (R89, R131). -/
def functionSet (w : BusWidth) (n f : Bool) : Byte :=
  0x20 ||| bitByte (dl w) <<< 4 ||| bitByte n <<< 3 ||| bitByte f <<< 2

/-- Set CGRAM address (R90). -/
def cgByte (addr6 : BitVec 6) : Byte := 0x40 ||| addr6.setWidth 8

/-- Set DDRAM address (R91). -/
def ddByte (addr7 : BitVec 7) : Byte := 0x80 ||| addr7.setWidth 8

/-- `ROW_BASE` (R51): no entry for rows 2 and above. -/
def rowBase (row : Nat) : Option Nat :=
  match row with
  | 0 => some 0x00
  | 1 => some 0x40
  | _ => none

/-- The DDRAM address of POS (R158), or none where the row or the column is out of range: `row >= CFG.ROWS`,
`col >= CFG.COLS`, or a row without an entry in `ROW_BASE` (U17 of spec/93). In a legal configuration the sum is below
0x80 and the narrowing to 7 bits changes nothing (R51, R163; log 15). -/
def posAddress (c : Cfg) (row : Nibble) (col : Byte) : Option (BitVec 7) :=
  if c.rows ≤ row.toNat ∨ c.cols ≤ col.toNat then none
  else (rowBase row.toNat).map fun base => BitVec.ofNat 7 (base + col.toNat)

/-- `B[7:4]` (R54). -/
def highNibble (b : Byte) : Nibble := b.extractLsb' 4 4

/-- `B[3:0]` (R54). -/
def lowNibble (b : Byte) : Nibble := b.extractLsb' 0 4

/-- The levels of `BUS_WIDTH` data lines: of a byte put on them, a 4-line bus shows the low half (R23, R34). -/
def onLines (w : BusWidth) (v : Byte) : Byte :=
  match w with
  | .eight => v
  | .four => v &&& 0x0F

/-- `T_tier` (R141). -/
def tierDelay (c : Cfg) : Tier → Micros
  | .short => c.tShort
  | .long => c.tLong

/-- The tier as a function of the command byte (R147): LONG exactly for 0x01 and 0x02. -/
def tierOf (b : Byte) : Tier := if b = 0x01 ∨ b = 0x02 then .long else .short

/-- `CMD(C, tier)` (R115): a command write. -/
def cmd (c : Byte) (t : Tier) : Xfer := { rs := false, byte := c, tier := t }

/-- `DATA(B)` (R115): a data write. -/
def data (b : Byte) : Xfer := { rs := true, byte := b, tier := .short }

/-- The three transfers of `BRINGUP` (R134). -/
def bringUp : List Xfer := [cmd 0x08 .short, cmd 0x01 .long, cmd 0x06 .short]

end Sys2Proof.Machine
end

