-- ==== Sys2Proof/Machine/Ops.lean ====
section
/-! DEFINITION. The shared operations: the event primitives (R14), reset (R200, R201), the transfer engine (R110 to R115),
the synchronization helper (R140 to R145), the run of a sequence of micro-steps, completion (R180, R186), the acceptance
of an operation word (R33). -/

namespace Sys2Proof.Machine

/-! ## Reset -/

/-- The transfer that forcing EN low presents to the device (R201): in write direction a falling edge of EN latches what
the pins show; in read direction it latches nothing (R62; log 9). That RS and the data lines are taken as they stood before
the reset, although all pins go to their reset values at once, is the model's choice (log 21). -/
def forcedLatch (p : Pins) : List (Bool × Byte) :=
  if p.en && !p.rw then [(p.rs, p.dout)] else []

/-- `rst` (R200, R201): LCDC's state takes its reset values and the operation in flight is abandoned; `CFG`, the device's
and the host's data stay, and no event is produced. The out-of-turn action has been used up. -/
def applyReset (s : State) : State :=
  { State.resetWith s.cfg with
    host := s.host, upset := none, din := s.din, samples := s.samples, hostCycle := s.hostCycle
    dinCycle := s.dinCycle, trace := s.trace
    latched := s.latched ++ forcedLatch s.pins }

/-! ## The environment's sequences -/

/-- What comes next of a sequence that is given by its coming elements and, after them, a cycle that is repeated without
end (log 3, log 4): a sequence that ends, or an eventually periodic one that does not. -/
def pending {α : Type} (now cycle : List α) : List α :=
  match now with
  | [] => cycle
  | x :: xs => x :: xs

/-- The words the host has to issue, up to the end of its list or of one cycle (R218; log 4). -/
def State.words (s : State) : List Word := pending s.host s.hostCycle

/-- The device's coming answers, up to the end of its list or of one cycle (R23, R146; log 3). -/
def State.answers (s : State) : List Byte := pending s.din s.dinCycle

/-! ## Events -/

/-- One event nearer to the out-of-turn action of the outside (log 5). -/
def tick : Option (Nat × Upset) → Option (Nat × Upset)
  | some (n + 1, u) => some (n, u)
  | some (0, u) => some (0, u)
  | none => none

/-- Every event primitive appends exactly one event (R14, R31). -/
def emit (e : Event) (s : State) : State :=
  { s with trace := s.trace ++ [e], upset := tick s.upset }

/-- `SetRS(b)`. -/
def setRS (b : Bool) (s : State) : State :=
  emit (.rs b) { s with pins := { s.pins with rs := b } }

/-- What the device latches at a write of `b` to EN (R62): at a falling edge in write direction, RS and the data lines. -/
def latchedAt (p : Pins) (b : Bool) : List (Bool × Byte) :=
  if b then [] else forcedLatch p

/-- `SetEN(b)`. -/
def setEN (b : Bool) (s : State) : State :=
  emit (.en b) { s with pins := { s.pins with en := b }, latched := s.latched ++ latchedAt s.pins b }

/-- `SetRW(b)`; used only where `CFG.CAN_READ = 1`. -/
def setRW (b : Bool) (s : State) : State :=
  emit (.rw b) { s with pins := { s.pins with rw := b } }

/-- `SetBL(b)`; used only where `CFG.HAS_BACKLIGHT = 1`. -/
def setBL (b : Bool) (s : State) : State :=
  emit (.bl b) { s with pins := { s.pins with bl := b } }

/-- `Drive(v)`. -/
def drive (v : Byte) (s : State) : State :=
  emit (.d v) { s with pins := { s.pins with dout := v } }

/-- The request of `Delay(n)` (R35): the event, with `n` on `dly_us` and `dly_req` raised. -/
def request (n : Micros) (s : State) : State :=
  emit (.dly n) { s with dlyUs := n, dlyReq := true }

/-- The answer `dly_done` (R35): `dly_req` falls (log 12). `dly_us` keeps the number asked for: the model's choice, the
spec does not say what it shows then (log 20). -/
def awaitDelay (s : State) : State := { s with dlyReq := false }

/-- What the data lines show at the next `Sample` (R23): the device's next answer, or a free value where none is
given, on `BUS_WIDTH` lines. -/
def lineValue (s : State) : Byte :=
  match s.answers with
  | v :: _ => onLines s.cfg.busWidth v
  | [] => onLines s.cfg.busWidth (Config.freeSample s.samples)

/-- The device's answer has been used. -/
def answerUsed (s : State) : State :=
  match s.answers with
  | _ :: rest => { s with din := rest }
  | [] => { s with samples := s.samples + 1 }

/-- `Sample()`: the event `IN->v`; no pin changes. -/
def sample (s : State) : State := emit (.inp (lineValue s)) (answerUsed s)

/-- `S <- Sample()` on 8 lines (R144). -/
def sampleByte (s : State) : State := { sample s with sts := some (lineValue s) }

/-- `RDH <- Sample()` on 4 lines (R145). -/
def sampleHigh (s : State) : State := { sample s with rdh := lowNibble (lineValue s) }

/-- `S <- RDH ++ Sample()` on 4 lines (R145). -/
def sampleLow (s : State) : State := { sample s with sts := some (assembleStatus s.rdh (lowNibble (lineValue s))) }

/-- Whether the status byte last read in the loop says busy (R29, R95, R142). The loop reads one before every exit test. -/
def stillBusy (s : State) : Bool :=
  match s.sts with
  | some b => busyFlag b
  | none => false

/-- The exit of the poll loop: LCDC stores no BF after it (R29), so the status byte is dropped, and `RDH`, which holds its
high half on 4 lines, is cleared; that it is 0 then is the model's choice (log 18). -/
def leavePoll (s : State) : State := { s with rdh := 0, sts := none }

/-- `complete(st)` (R14, R28, R33, R186): presents the status with `done`, returns to IDLE, produces no event. An error
completion is this and nothing else: no pin, no saved state, no handler (R186, R187). That it leaves `OPR`, `BYTE`, `TIER` and
`RDH` as they are is the model's choice, R26 leaves them unspecified between operations (log 18). -/
def complete (st : Status) (s : State) : State := { s with status := st, done := true, seq := .idle }

/-! ## The run of a sequence -/

/-- The effect of one micro-step; of the exit test of the poll, where the sequence goes on (`runScript` makes the test). -/
def doPrim (p : Prim) (s : State) : State :=
  match p with
  | .loadByte b => { s with byte := b }
  | .loadTier t => { s with tier := t }
  | .setRS b => setRS b s
  | .setEN b => setEN b s
  | .setRW b => setRW b s
  | .setBL b => setBL b s
  | .driveByte => drive s.byte s
  | .driveHigh => drive ((highNibble s.byte).setWidth 8) s
  | .driveLow => drive ((lowNibble s.byte).setWidth 8) s
  | .request n => request n s
  | .requestTier => request (tierDelay s.cfg s.tier) s
  | .await => awaitDelay s
  | .sampleByte => sampleByte s
  | .sampleHigh => sampleHigh s
  | .sampleLow => sampleLow s
  | .pollTest _ => leavePoll s
  | .complete st => complete st s

/-- The out-of-turn action that comes now, if any. -/
def upsetNow (s : State) : Option Upset :=
  match s.upset with
  | some (0, u) => some u
  | some (_ + 1, _) => none
  | none => none

/-- Runs micro-steps in order (R57). Before each, an out-of-turn action that is due ends the run: `rst` abandons the
operation where it stands (R201), a second `op_valid` is a fault of the run (R206). At the exit test of the poll loop a
busy status ends the step inside the loop (R142, R146), so that the next step makes the next status read. -/
def runScript : List Prim → State → Result
  | [], s => .next s
  | p :: ps, s =>
    match upsetNow s with
    | some .rst => .next (applyReset s)
    | some .opValid => .fault .opWhileBusy
    | none =>
      match p with
      | .pollTest rest =>
        if stillBusy s then .next { s with seq := .polling rest } else runScript ps (doPrim (.pollTest rest) s)
      | p => runScript ps (doPrim p s)

/-! ## The transfer engine -/

/-- `Delay(n)` (R14, R35). -/
def delay (n : Micros) : List Prim := [.request n, .await]

/-- `PULSE()` (R110). -/
def pulse (c : Cfg) : List Prim := [.setEN true] ++ delay c.tPulse ++ [.setEN false]

/-- `RAWNIB(rs, n)` (R111). `BYTE` holds the lone nibble, zero-extended, and its low half is driven: the model's choice, the
spec does not say what `BYTE` holds there (log 18). -/
def rawNib (c : Cfg) (rs : Bool) (n : Nibble) : List Prim :=
  [.loadByte (n.setWidth 8), .setRS rs, .driveLow] ++ pulse c

/-- `RAW8(rs, B)` (R112). -/
def raw8 (c : Cfg) (rs : Bool) (b : Byte) : List Prim := [.loadByte b, .setRS rs, .driveByte] ++ pulse c

/-- `RAW4(rs, B)` (R113): high nibble first, RS written once. -/
def raw4 (c : Cfg) (rs : Bool) (b : Byte) : List Prim :=
  [.loadByte b, .setRS rs, .driveHigh] ++ pulse c ++ [.driveLow] ++ pulse c

/-- The write part of a transfer (R114): the branch on the bus width is static. -/
def rawByte (c : Cfg) (rs : Bool) (b : Byte) : List Prim :=
  match c.busWidth with
  | .eight => raw8 c rs b
  | .four => raw4 c rs b

/-! ## The synchronization helper -/

/-- `READCYC()` (R143) with the given sampling. -/
def readCyc (c : Cfg) (smp : Prim) : List Prim := [.setEN true] ++ delay c.tPulse ++ [smp, .setEN false]

/-- `READSTATUS()` (R144, R145). -/
def readStatus (c : Cfg) : List Prim :=
  match c.busWidth with
  | .eight => readCyc c .sampleByte
  | .four => readCyc c .sampleHigh ++ readCyc c .sampleLow

/-- One pass through the loop of `BUSYPOLL` and what follows it (R142). -/
def pollLoop (c : Cfg) (rest : List Xfer) : List Prim := readStatus c ++ [.pollTest rest, .setRW false]

/-- `BUSYPOLL()` (R142). -/
def busyPoll (c : Cfg) (rest : List Xfer) : List Prim := [.setRS false, .setRW true] ++ pollLoop c rest

/-- `SYNC(tier)` (R140, R141) for the latched tier: the strategy is static. `rest` are the transfers that follow. -/
def sync (c : Cfg) (rest : List Xfer) : List Prim :=
  if c.canRead then busyPoll c rest else [.requestTier, .await]

/-- `XFER(rs, B, tier)` (R114), followed by the transfers `rest`. -/
def xfer (c : Cfg) (x : Xfer) (rest : List Xfer) : List Prim :=
  [.loadTier x.tier] ++ rawByte c x.rs x.byte ++ sync c rest

/-- Transfers in order, then `complete(OK)` (R150). -/
def transfers (c : Cfg) : List Xfer → List Prim
  | [] => [.complete .ok]
  | x :: rest => xfer c x rest ++ transfers c rest

/-- The effect of an operation that is transfers and nothing else (R150). -/
def runTransfers (xs : List Xfer) (s : State) : Result := runScript (transfers s.cfg xs) s

/-- Goes on in the loop of `BUSYPOLL` (R142): the next status read, then what the answer asks for. -/
def resumePoll (rest : List Xfer) (s : State) : Result :=
  runScript (pollLoop s.cfg rest ++ transfers s.cfg rest) s

/-- An operation that ends with an error status (R186): no event, nothing but the completion. -/
def failWith (st : Status) (s : State) : Result := runScript [.complete st] s

/-! ## The host port -/

/-- Acceptance (R33): `op_word` is captured into `OPR` once, and `done` of the operation before falls. -/
def accept (w : Word) (rest : List Word) (s : State) : State := { s with opr := w, host := rest, done := false }

/-- `done` is a pulse (R33): it falls at the step after the completion (log 13). `STATUS` keeps its value until the next
completion: the model's choice, R28 makes it valid only at completion (log 19). -/
def clearDone (s : State) : State := { s with done := false }

/-- `op_ready` (R33). -/
def State.opReady (s : State) : Bool := decide (s.seq = .idle)

/-- `d_oe` (R22, R34). -/
def State.dOe (s : State) : Bool := !s.pins.rw

/-- What LCDC drives on the data lines (R22): nothing while `PINS.rw = 1`. -/
def State.driven (s : State) : Option Byte := if s.dOe then some s.pins.dout else none

end Sys2Proof.Machine
end

