-- ==== Sys2Proof/Machine/CommandOps.lean ====
section
/-! DEFINITION. The meanings of the operations that send one command byte (R150 to R158): CLEAR, HOME, ENTRY, DISPLAY,
SHIFT, SETCG, SETDD, POS. -/

namespace Sys2Proof.Machine

/-- CLEAR (R151): `CMD(0x01, LONG); complete(OK)`. -/
def execClear (s : State) : Result := runTransfers [cmd clearByte .long] s

/-- HOME (R152): `CMD(0x02, LONG); complete(OK)`. -/
def execHome (s : State) : Result := runTransfers [cmd homeByte .long] s

/-- ENTRY (R153). -/
def execEntry (dir sh : Bool) (s : State) : Result := runTransfers [cmd (entryByte dir sh) .short] s

/-- DISPLAY (R154). -/
def execDisplay (on cur blk : Bool) (s : State) : Result := runTransfers [cmd (displayByte on cur blk) .short] s

/-- SHIFT (R155). -/
def execShift (tgt rl : Bool) (s : State) : Result := runTransfers [cmd (shiftByte tgt rl) .short] s

/-- SETCG (R156): the address is not validated. -/
def execSetcg (addr6 : BitVec 6) (s : State) : Result := runTransfers [cmd (cgByte addr6) .short] s

/-- SETDD (R157): the address is not validated. -/
def execSetdd (addr7 : BitVec 7) (s : State) : Result := runTransfers [cmd (ddByte addr7) .short] s

/-- POS (R158, R181): the range check precedes every event. -/
def execPos (row : Nibble) (col : Byte) (s : State) : Result :=
  match posAddress s.cfg row col with
  | none => failWith .invalidArgument s
  | some addr7 => runTransfers [cmd (ddByte addr7) .short] s

end Sys2Proof.Machine
end

