-- ==== Sys2Proof/Machine/DataOps.lean ====
section
/-! DEFINITION. The meaning of WRITE (R159), the one operation that sends a data byte. -/

namespace Sys2Proof.Machine

/-- WRITE (R159): `DATA(data); complete(OK)`. -/
def execWrite (b : Byte) (s : State) : Result := runTransfers [data b] s

end Sys2Proof.Machine
end

