-- ==== Sys2Proof/Machine/SystemOps.lean ====
section
/-! DEFINITION. The meanings of the operations that configure (R165): INIT (R130 to R137) and BACKLIGHT (R161); and of an
operation word that fails the decode checks (R182). -/

namespace Sys2Proof.Machine

/-- `PREAMBLE8(FS)` (R132): its delays are always fixed (R135). -/
def preamble8 (c : Cfg) (fs : Byte) : List Prim :=
  raw8 c false fs ++ delay c.tInit1 ++ raw8 c false fs ++ delay c.tInit2 ++ raw8 c false fs ++ delay c.tInit3

/-- The three single nibbles of `PREAMBLE4(FS)` (R133): its delays are always fixed (R135). -/
def preamble4 (c : Cfg) (fs : Byte) : List Prim :=
  rawNib c false (highNibble fs) ++ delay c.tInit1 ++ rawNib c false (highNibble fs) ++ delay c.tInit2
    ++ rawNib c false (highNibble fs) ++ delay c.tInit3

/-- INIT (R130): the preamble of the bus width, on a 4-line bus the whole function-set command (R133), the bring-up
(R134), `complete(OK)`. -/
def execInit (n f : Bool) (s : State) : Result :=
  let fs := functionSet s.cfg.busWidth n f
  match s.cfg.busWidth with
  | .eight => runScript (preamble8 s.cfg fs ++ transfers s.cfg bringUp) s
  | .four => runScript (preamble4 s.cfg fs ++ transfers s.cfg (cmd fs .short :: bringUp)) s

/-- BACKLIGHT (R161): the single event `BL=on`; without the line the word is illegal (R93, check 2). -/
def execBacklight (on : Bool) (s : State) : Result :=
  if s.cfg.hasBacklight then runScript [.setBL on, .complete .ok] s else failWith .illegalOperation s

/-- An operation word that fails a decode check (R93, R182). -/
def execIllegal (s : State) : Result := failWith .illegalOperation s

end Sys2Proof.Machine
end

