-- ==== Sys2Proof/Machine/Dispatch.lean ====
section
/-! DEFINITION. One arm for each operation. -/

namespace Sys2Proof.Machine

def exec (i : Instr) (s : State) : Host.Outcome State Fault Refusal :=
  match i with
  | .clear => Sys2Proof.Machine.execClear s
  | .home => Sys2Proof.Machine.execHome s
  | .entry dir sh => Sys2Proof.Machine.execEntry dir sh s
  | .display on cur blk => Sys2Proof.Machine.execDisplay on cur blk s
  | .shift tgt rl => Sys2Proof.Machine.execShift tgt rl s
  | .init n f => Sys2Proof.Machine.execInit n f s
  | .setcg addr6 => Sys2Proof.Machine.execSetcg addr6 s
  | .setdd addr7 => Sys2Proof.Machine.execSetdd addr7 s
  | .pos row col => Sys2Proof.Machine.execPos row col s
  | .write b => Sys2Proof.Machine.execWrite b s
  | .backlight on => Sys2Proof.Machine.execBacklight on s

end Sys2Proof.Machine
end

