-- ==== Sys2Proof/Machine/Sequencer.lean ====
section
/-! DEFINITION. What one step of LCDC does: reset, the poll loop, or the acceptance of the host's next word (R27, R33,
R57, R200, R218). -/

namespace Sys2Proof.Machine

/-- Runs the operation word in `OPR` (R26, R33): a legal word is its operation, another word completes with
`ILLEGAL_OPERATION` (R93, R182). -/
def runAccepted (s : State) : Result :=
  match decode s.opr with
  | .ok i => exec i s
  | .error _ => execIllegal s

/-- LCDC out of reset: an operation in flight goes on in its poll loop (R142), whatever the host has to issue; else the
host's next word is accepted and run (R33, R57); else LCDC stays idle (R218; log 4). -/
def advance (s : State) : Result :=
  match s.seq with
  | .polling rest => resumePoll rest (clearDone s)
  | .idle =>
    match s.words with
    | [] => .next (clearDone s)
    | w :: ws => runAccepted (accept w ws s)

/-- One step: an `rst` that comes now resets (R200, R201; log 5), before a word is accepted (log 11); else LCDC goes on. -/
def sequence (s : State) : Result :=
  if s.upset = some (0, .rst) then .next (applyReset s) else advance s

/-- `s` with an operation word as the next one that the host issues, LCDC idle, and no `rst` before it. -/
def presentWord (s : State) (w : Word) : State :=
  { s with
    seq := .idle, host := w :: s.host
    upset := if s.upset = some (0, .rst) then none else s.upset }

end Sys2Proof.Machine
end

