-- ==== Sys2Proof/Machine/Step.lean ====
section
/-! DEFINITION. One step of LCDC, and the state in which the next step runs a given operation word. -/

namespace Sys2Proof.Machine

/-- One step of LCDC (R27, R33, R57). -/
def step (s : State) : Host.Outcome State Fault Refusal := Sys2Proof.Machine.sequence s

/-- `s` with the opcode-table word (`nbits` bits of `w`) as the next word that the host issues, so that the next step
accepts and runs exactly it (R33; log 4). -/
def State.withFetchWord (s : State) (nbits w : Nat) : State :=
  Sys2Proof.Machine.presentWord s (BitVec.ofNat 16 (w % 2 ^ nbits))

end Sys2Proof.Machine
end

