-- ==== Sys2Proof/Machine/Observe.lean ====
section
/-! DEFINITION. The observables derived from a trace (R31, R62, R63): pin values, latch log, lower bound on time, counts of
enable pulses, and the discipline of the pins while EN is high (R23, R119). -/

namespace Sys2Proof.Machine

/-- `PINS` after an event (R14, R21): each field is written by exactly one event. -/
def Pins.after (p : Pins) : Event → Pins
  | .rs b => { p with rs := b }
  | .en b => { p with en := b }
  | .rw b => { p with rw := b }
  | .d v => { p with dout := v }
  | .bl b => { p with bl := b }
  | .inp _ => p
  | .dly _ => p

/-- `PINS` after a trace. -/
def Pins.afterAll (p : Pins) (es : List Event) : Pins := es.foldl Pins.after p

/-- The entry of the latch log that an event adds (R62): at `EN=0` while EN is high in write direction. -/
def latchEntry (p : Pins) : Event → List (Bool × Byte)
  | .en false => if p.en = true ∧ p.rw = false then [(p.rs, p.dout)] else []
  | .en true => []
  | .rs _ => []
  | .rw _ => []
  | .d _ => []
  | .inp _ => []
  | .dly _ => []
  | .bl _ => []

/-- The latch log of a trace that starts with the given pins (R62). -/
def latchLog : Pins → List Event → List (Bool × Byte)
  | _, [] => []
  | p, e :: es => latchEntry p e ++ latchLog (p.after e) es

/-- The microseconds an event asks for. -/
def Event.micros : Event → Nat
  | .dly n => n.toNat
  | .rs _ => 0
  | .en _ => 0
  | .rw _ => 0
  | .d _ => 0
  | .inp _ => 0
  | .bl _ => 0

/-- `t_min` (R63): the sum of the arguments of all `DLY` events. -/
def tMin (es : List Event) : Nat := (es.map Event.micros).sum

/-- How many enable pulses a trace has: its `EN=1` events (R118). -/
def enablePulses (es : List Event) : Nat := es.count (.en true)

/-- Where EN stands in an enable pulse or a read cycle (R110, R143). -/
inductive Strobe where
  /-- EN is low. -/
  | low
  /-- After `EN=1`. -/
  | raised
  /-- After the `DLY(T_PULSE)` that follows it. -/
  | timed
  /-- After the `IN->v` of a read cycle. -/
  | sampled
deriving DecidableEq, Repr

/-- Where EN stands after an event, or none where the event may not occur (R119, R110, R143): RS, the data lines, RW and
BL are written, and other delays requested, only with EN low; EN is raised only when low; while it is high there is one
`DLY(T_PULSE)`, then in read direction one sample (R23), then `EN=0`. -/
def Strobe.next (c : Cfg) (p : Pins) (st : Strobe) : Event → Option Strobe
  | .rs _ => if st = .low then some .low else none
  | .d _ => if st = .low then some .low else none
  | .rw _ => if st = .low then some .low else none
  | .bl _ => if st = .low then some .low else none
  | .en true => if st = .low then some .raised else none
  | .dly n => if st = .low then some .low else if st = .raised ∧ n = c.tPulse then some .timed else none
  | .inp _ => if st = .timed ∧ p.rw = true then some .sampled else none
  | .en false => if st = .sampled ∨ (st = .timed ∧ p.rw = false) then some .low else none

/-- Whether every event of a trace may occur where it stands (R119, R23). -/
def disciplined (c : Cfg) : Pins → Strobe → List Event → Bool
  | _, _, [] => true
  | p, st, e :: es =>
    match st.next c p e with
    | some st' => disciplined c (p.after e) st' es
    | none => false

/-- The events a step added to the trace. -/
def newEvents (s t : State) : List Event := t.trace.drop s.trace.length

end Sys2Proof.Machine
end

