-- ==== Sys2Proof/Safety.lean ====
section
/-! DEFINITION. What a good state and a good run are (R36, R218), and the host's duties (R203 to R210), in the terms the
claims use. -/

namespace Sys2Proof.Machine

/-- An operation boundary of R36 at which nothing out of turn is under way: LCDC is idle, EN and RW are low, and neither
`rst` nor a breach of R206 is to come. -/
structure State.Ready (s : State) : Prop where
  idle : s.seq = .idle
  enLow : s.pins.en = false
  rwLow : s.pins.rw = false
  calm : s.upset = none

/-- Inside the busy-flag poll between two status reads (R142, R146), nothing out of turn under way. -/
structure State.InPoll (s : State) (rest : List Xfer) : Prop where
  polling : s.seq = .polling rest
  rsLow : s.pins.rs = false
  enLow : s.pins.en = false
  rwHigh : s.pins.rw = true
  reads : s.cfg.canRead = true
  calm : s.upset = none

/-- The invariant of LCDC between two steps: a legal configuration (R9, R10); EN low (R36, R119); write direction when
idle (R36); in the poll, read direction with RS low on a binding that can read (R22, R142), with part of the bring-up
still to send (R134); a value that fits the lines (R21); BL off without the line (R190); no delay request pending
(R35). -/
structure State.Inv (s : State) : Prop where
  legal : s.cfg.wf = true
  enLow : s.pins.en = false
  idleWrites : s.seq = .idle → s.pins.rw = false
  pollReads : ∀ rest, s.seq = .polling rest →
    s.pins.rw = true ∧ s.pins.rs = false ∧ s.cfg.canRead = true ∧ rest <:+ bringUp
  fits : s.cfg.busWidth = .four → s.pins.dout.toNat < 16
  noLight : s.cfg.hasBacklight = false → s.pins.bl = false
  noRequest : s.dlyReq = false

/-- R29: LCDC stores a status byte in the poll loop only, where the one last read said busy. -/
structure State.FlagOnlyInLoop (s : State) : Prop where
  idle : s.seq = .idle → s.sts = none
  polling : ∀ rest, s.seq = .polling rest → stillBusy s = true

/-- `k` steps, one after the other; a fault or a refusal ends the run. -/
def runSteps : Nat → State → Result
  | 0, s => .next s
  | k + 1, s =>
    match step s with
    | .next t => runSteps k t
    | .fault f => .fault f
    | .refused r => .refused r

/-- The run has ended well (R218): the host has no more operations to issue and LCDC is idle. That the host has no more is
read off `host` and `hostCycle` as they are now, also in a run whose host decides on more words on its way (`IsRun`), is the
model's choice (log 4): R218 does not say whether a run has ended at a moment when nothing is pending. -/
def State.endedWell (s : State) : Bool := s.words.isEmpty && s.opReady

/-- What the environment may do between two steps (R218, R23): the host decides on more words, the device on more answers;
where no out-of-turn action is to come, one may be set (log 5). -/
def Supplied (s t : State) : Prop :=
  ∃ ws vs u, t = { s with host := s.host ++ ws, din := s.din ++ vs, upset := u } ∧ (s.upset = none ∨ u = s.upset)

/-- An infinite run of R218 on a configuration: from reset, with whatever the host and the device decide on its way. A
finite run is a part of one, since an idle LCDC stays idle (log 4). -/
structure IsRun (c : Cfg) (f : Nat → State) : Prop where
  reset : f 0 = State.resetWith c
  step : ∀ n, ∃ t, Supplied (f n) t ∧ Machine.step t = .next (f (n + 1))

/-- Whether a word is INIT (R205). -/
def isInit (w : Word) : Bool := opcField w == 6

/-- Whether a word is BACKLIGHT, which may come before INIT (R203). -/
def isBacklight (w : Word) : Bool := opcField w == 11

/-- The host's duty of R203 and R205: after power-up or reset, only BACKLIGHT before the first INIT. -/
def bootsFirst : List Word → Bool
  | [] => true
  | w :: ws => isInit w || (isBacklight w && bootsFirst ws)

/-- The host's duties about the operands of INIT: 5x10 dots only with one line (R209), the line count of `CFG.ROWS`
(R210). LCDC checks neither. -/
def initAgrees (c : Cfg) (n f : Bool) : Bool := !(n && f) && (c.rows == if n then 2 else 1)

end Sys2Proof.Machine
end

