-- ==== Sys2Proof/Certificates/Slice0/Obligations.lean ====
section
/-! DEFINITION. The statements for the provers. `Sys2Proof.Expect` holds what the spec's rules say an operation sends,
written from the rules in their own arithmetic and not from the machine's sequences; the statements compare the machine
with it. `lineValue` and `answerUsed` (Machine/Ops.lean) name the environment's next answer and its removal. -/

namespace Sys2Proof.Expect

open Sys2Proof.Machine

/-- `B >> 4` (R54). -/
def high (b : Byte) : Byte := b >>> 4

/-- `B & 0x0F` (R54). -/
def low (b : Byte) : Byte := b &&& 0x0F

/-- The events of one enable pulse (R110). -/
def pulse (c : Cfg) : List Event := [.en true, .dly c.tPulse, .en false]

/-- The events of the write part of a transfer (R112, R113). -/
def writeEvents (c : Cfg) (rs : Bool) (b : Byte) : List Event :=
  match c.busWidth with
  | .eight => [.rs rs, .d b] ++ pulse c
  | .four => [.rs rs, .d (high b)] ++ pulse c ++ [.d (low b)] ++ pulse c

/-- What the device latches in the write part (R62, R112, R113). -/
def latches (c : Cfg) (rs : Bool) (b : Byte) : List (Bool × Byte) :=
  match c.busWidth with
  | .eight => [(rs, b)]
  | .four => [(rs, high b), (rs, low b)]

/-- `PINS.dout` after the write part (R116). -/
def lastDriven (c : Cfg) (b : Byte) : Byte :=
  match c.busWidth with
  | .eight => b
  | .four => low b

/-- The delay of a tier (R141). -/
def settle (c : Cfg) : Tier → Micros
  | .short => c.tShort
  | .long => c.tLong

/-- The state after a transfer `XFER(rs, b, tier)` that ends in a fixed delay, and the completion with `OK` (R114, R141,
R116). Everything not named is as before. That `OPR`, `BYTE`, `TIER` and `RDH` keep their values after the completion is
the model's choice (log 18), and that `dly_us` does after the delay (log 20). -/
def sentFixed (s : State) (rs : Bool) (b : Byte) (t : Tier) : State :=
  { s with
    pins := { rs := rs, en := false, rw := false, dout := lastDriven s.cfg b, bl := s.pins.bl }
    seq := .idle, byte := b, tier := t, status := .ok, done := true, dlyReq := false, dlyUs := settle s.cfg t
    trace := s.trace ++ writeEvents s.cfg rs b ++ [.dly (settle s.cfg t)]
    latched := s.latched ++ latches s.cfg rs b }

/-- The samples of one status read (R144, R145). -/
def samples (s : State) : List Byte :=
  match s.cfg.busWidth with
  | .eight => [lineValue s]
  | .four => [lineValue s, lineValue (answerUsed s)]

/-- The status byte of one status read (R144, R145): on 4 lines the first sample is bits 7:4. -/
def statusByte (s : State) : Byte :=
  match s.cfg.busWidth with
  | .eight => lineValue s
  | .four => (lineValue s <<< 4) ||| low (lineValue (answerUsed s))

/-- `RDH` after one status read (R145). -/
def firstHalf (s : State) : Nibble :=
  match s.cfg.busWidth with
  | .eight => s.rdh
  | .four => (lineValue s).setWidth 4

/-- The device's answers left after one status read. -/
def answersRead (s : State) : State :=
  match s.cfg.busWidth with
  | .eight => answerUsed s
  | .four => answerUsed (answerUsed s)

/-- The events of one status read (R143, R144, R145). -/
def readEvents (s : State) : List Event :=
  (samples s).flatMap fun v => [.en true, .dly s.cfg.tPulse, .inp v, .en false]

/-- Whether the device is busy at the next status read (R95): bit 7 of the status byte. -/
abbrev busyNext (s : State) : Prop := (statusByte s).getLsbD 7 = true

/-- The state after one more status read in the poll loop that was busy (R142): still there. Its `S` is held until
the next read (log 18), its `dly_us` after the pulse (log 20), its `STATUS` while `done` is 0 (log 19). -/
def stillPolling (s : State) : State :=
  { answersRead s with
    done := false, rdh := firstHalf s, sts := some (statusByte s), dlyReq := false, dlyUs := s.cfg.tPulse
    trace := s.trace ++ readEvents s }

/-- The state after the write part of a transfer and the first status read of its poll, which was busy (R142). Its `S` is
held until the next read (log 18), its `dly_us` after the pulse (log 20), its `STATUS` while `done` is 0 (log 19). -/
def sentBusy (s : State) (rs : Bool) (b : Byte) (t : Tier) (rest : List Xfer) : State :=
  { answersRead s with
    pins := { rs := false, en := false, rw := true, dout := lastDriven s.cfg b, bl := s.pins.bl }
    seq := .polling rest, byte := b, tier := t, rdh := firstHalf s, sts := some (statusByte s)
    dlyReq := false, dlyUs := s.cfg.tPulse
    trace := s.trace ++ writeEvents s.cfg rs b ++ [.rs false, .rw true] ++ readEvents s
    latched := s.latched ++ latches s.cfg rs b }

/-- The state after a transfer whose poll was ready at its first status read, before the completion (R142, R116). LCDC
stores no status byte after the loop (R29). What the latches and `dly_us` hold after it is the model's choice (log 18, log 20). -/
def sentReady (s : State) (rs : Bool) (b : Byte) (t : Tier) : State :=
  { answersRead s with
    pins := { rs := false, en := false, rw := false, dout := lastDriven s.cfg b, bl := s.pins.bl }
    byte := b, tier := t, rdh := 0, sts := none, dlyReq := false, dlyUs := s.cfg.tPulse
    trace := s.trace ++ writeEvents s.cfg rs b ++ [.rs false, .rw true] ++ readEvents s ++ [.rw false]
    latched := s.latched ++ latches s.cfg rs b }

/-- The state after a status read in the poll loop that was ready (R142): write direction restored, and no status byte
stored any more (R29). That `RDH` is 0 then is the model's choice (log 18), as is that `dly_us` is held (log 20). -/
def leftPoll (s : State) : State :=
  { stillPolling s with
    pins := { s.pins with rw := false }, rdh := 0, sts := none
    trace := s.trace ++ readEvents s ++ [.rw false] }

/-- A completion with `OK` (R28, R33). -/
def completed (s : State) : State := { s with seq := .idle, status := .ok, done := true }

/-- The transfers of an operation from a state on, on a binding that can read, up to the first busy status read or the
completion (R114, R142, R150). That a busy read ends the step is the model's choice (log 2). -/
def sendAll : List Xfer → State → State
  | [], s => completed s
  | x :: rest, s =>
    if busyNext s then sentBusy s x.rs x.byte x.tier rest else sendAll rest (sentReady s x.rs x.byte x.tier)

/-- What an operation that is one transfer does, on every binding (R150, R140 to R142): with the fixed delay it completes;
with the poll it completes when the first status read is ready, and is in the poll when it is busy. That the step ends in
the poll at a busy read is the model's choice (log 2), as are the values the latches and `dly_us` keep (log 18, log 20). -/
def OneTransfer (r : Result) (s : State) (rs : Bool) (b : Byte) (t : Tier) : Prop :=
  (s.cfg.canRead = false → r = .next (sentFixed s rs b t)) ∧
  (s.cfg.canRead = true → ¬ busyNext s → r = .next (completed (sentReady s rs b t))) ∧
  (s.cfg.canRead = true → busyNext s → r = .next (sentBusy s rs b t []))

/-- `b` as a number (R82). -/
def bit (b : Bool) : Nat := if b then 1 else 0

/-- The one transfer of an operation that is one transfer (R151 to R159), from the operands as numbers; none for INIT,
BACKLIGHT and a POS out of range. -/
def transferOf (c : Cfg) : Instr → Option (Bool × Byte × Tier)
  | .clear => some (false, 0x01, .long)
  | .home => some (false, 0x02, .long)
  | .entry dir sh => some (false, BitVec.ofNat 8 (0x04 + 2 * bit dir + bit sh), .short)
  | .display on cur blk => some (false, BitVec.ofNat 8 (0x08 + 4 * bit on + 2 * bit cur + bit blk), .short)
  | .shift tgt rl => some (false, BitVec.ofNat 8 (0x10 + 8 * bit tgt + 4 * bit rl), .short)
  | .setcg addr6 => some (false, BitVec.ofNat 8 (0x40 + addr6.toNat), .short)
  | .setdd addr7 => some (false, BitVec.ofNat 8 (0x80 + addr7.toNat), .short)
  | .pos row col =>
    if row.toNat < c.rows ∧ col.toNat < c.cols then
      some (false, BitVec.ofNat 8 (0x80 + 0x40 * row.toNat + col.toNat), .short)
    else none
  | .write data => some (true, data, .short)
  | .init _ _ => none
  | .backlight _ => none

/-- The function-set byte (R89), as a number: `DL` on an 8-line bus. -/
def functionSet (c : Cfg) (n f : Bool) : Byte :=
  BitVec.ofNat 8 (0x20 + 16 * (match c.busWidth with | .eight => 1 | .four => 0) + 8 * bit n + 4 * bit f)

/-- One function-set transfer of the preamble without its delay (R111, R112): the whole byte on 8 lines, the high nibble
alone on 4. -/
def preambleWrite (c : Cfg) (fs : Byte) : List Event :=
  match c.busWidth with
  | .eight => [.rs false, .d fs] ++ pulse c
  | .four => [.rs false, .d (high fs)] ++ pulse c

/-- The preamble of INIT (R132, R133): three transfers with their fixed delays. -/
def preamble (c : Cfg) (fs : Byte) : List Event :=
  preambleWrite c fs ++ [.dly c.tInit1] ++ preambleWrite c fs ++ [.dly c.tInit2] ++ preambleWrite c fs ++ [.dly c.tInit3]

/-- What the device latches in the preamble (R62, R132, R133). -/
def preambleLatches (c : Cfg) (fs : Byte) : List (Bool × Byte) :=
  match c.busWidth with
  | .eight => [(false, fs), (false, fs), (false, fs)]
  | .four => [(false, high fs), (false, high fs), (false, high fs)]

/-- The events of a transfer with its fixed delay (R114, R141). -/
def fixedEvents (c : Cfg) (b : Byte) (t : Tier) : List Event := writeEvents c false b ++ [.dly (settle c t)]

/-- The state after the preamble (R132, R133), before the transfers that follow it. `BYTE` on 4 lines is the model's choice
(log 18), `dly_us` is held (log 20). -/
def afterPreamble (s : State) (fs : Byte) : State :=
  { s with
    pins := { rs := false, en := false, rw := false, bl := s.pins.bl
              dout := match s.cfg.busWidth with | .eight => fs | .four => high fs }
    byte := match s.cfg.busWidth with | .eight => fs | .four => high fs
    dlyReq := false, dlyUs := s.cfg.tInit3
    trace := s.trace ++ preamble s.cfg fs
    latched := s.latched ++ preambleLatches s.cfg fs }

/-- The reserved bits of `b` for the operation codes 0x0 to 0xB, as R93 lists them (0x0 is reserved whatever `b` is). -/
def reservedBits : List Nat := [0xFF, 0xFF, 0xFF, 0xFC, 0xF8, 0xF3, 0xF3, 0xC0, 0x80, 0x00, 0x00, 0xFE]

/-- `W[15:12]` of a word (R80), as a number. -/
def opcOf (w : Word) : Nat := w.toNat / 4096

/-- `W[11:8]`, as a number. -/
def aOf (w : Word) : Nat := w.toNat / 256 % 16

/-- `W[7:0]`, as a number. -/
def bOf (w : Word) : Nat := w.toNat % 256

/-- A legal operation word (R93): the four checks, on the word as a number. -/
def Legal (c : Cfg) (w : Word) : Prop :=
  (1 ≤ opcOf w ∧ opcOf w ≤ 11) ∧ (opcOf w = 11 → c.hasBacklight = true) ∧ (opcOf w ≠ 9 → aOf w = 0) ∧
    bOf w &&& reservedBits.getD (opcOf w) 0 = 0

/-- Issued in `s`, a word completes with `ILLEGAL_OPERATION` and does nothing else (R182, R186): no event, no pin. That
`OPR` keeps the word is the model's choice (log 18). -/
def Rejected (s : State) (w : Word) : Prop :=
  ∀ ws, step { s with host := w :: ws } =
    .next { s with opr := w, host := ws, status := .illegalOperation, done := true }

/-- The command bytes that can appear on a bus (R94): the function-set values are those of its width. -/
def Emittable (w : BusWidth) (b : Byte) : Prop :=
  b = 0x01 ∨ b = 0x02 ∨ (0x04 ≤ b.toNat ∧ b.toNat ≤ 0x0F) ∨ b = 0x10 ∨ b = 0x14 ∨ b = 0x18 ∨ b = 0x1C ∨
    (match w with
      | .eight => b = 0x30 ∨ b = 0x34 ∨ b = 0x38 ∨ b = 0x3C
      | .four => b = 0x20 ∨ b = 0x24 ∨ b = 0x28 ∨ b = 0x2C) ∨ 0x40 ≤ b.toNat

/-- Whether a step in `s` accepts an INIT. -/
def AcceptsInit (s : State) : Prop :=
  ∃ w ws n f, s.seq = .idle ∧ s.words = w :: ws ∧ decode w = .ok (.init n f)

/-- The state after `rst` (R32, R200, R201): LCDC's registers at their reset values, `CFG` and the environment's data as
before, no event; the transfer that the forced fall of EN presents to the device (R201). The values of `OPR`, `BYTE`,
`TIER`, `RDH`, `STATUS` and `dly_us`, which the spec leaves open, are left out: they are those of `t`; that no status byte is
stored (R29) is in `FlagOnlyInLoop`. The model's choices here: `rst` due at the start of a step comes before the acceptance
of a word, so that an idle LCDC accepts none and the host keeps its word, `t.host = s.host` (log 11); whether the forced
fall adds an entry to what the device latched (log 9), and that it has the values of RS and the data lines from before the
reset (log 21). -/
def IsReset (s t : State) : Prop :=
  t.cfg = s.cfg ∧ t.pins = { rs := false, en := false, rw := false, dout := 0, bl := false } ∧ t.seq = .idle ∧
  t.done = false ∧ t.dlyReq = false ∧ t.host = s.host ∧ t.din = s.din ∧ t.samples = s.samples ∧
  t.hostCycle = s.hostCycle ∧ t.dinCycle = s.dinCycle ∧ t.upset = none ∧ t.trace = s.trace ∧
  t.latched = s.latched ++ (if s.pins.en = true ∧ s.pins.rw = false then [(s.pins.rs, s.pins.dout)] else [])

/-- What `rst` after `n` more events does to a step that without it answers `u` (R201). The model's choices here: where `f` is
`exec`, the word has been accepted before, so that also with `n = 0` it is lost with the operation and is not in `t.host`
(log 11); whether the forced fall of EN adds an entry to what the device latched (log 9), with which values (log 21). -/
def CutByRst (f : State → Result) (s u : State) (n : Nat) : Prop :=
  let es := (newEvents s u).take n
  let p := s.pins.afterAll es
  (n ≤ (newEvents s u).length →
    ∃ t, f { s with upset := some (n, .rst) } = .next t ∧ t.seq = .idle ∧ t.done = false ∧
      t.pins = { rs := false, en := false, rw := false, dout := 0, bl := false } ∧ t.cfg = s.cfg ∧ t.host = s.host ∧
      t.dlyReq = false ∧ t.upset = none ∧ t.trace = s.trace ++ es ∧
      t.latched = s.latched ++ latchLog s.pins es
        ++ (if p.en = true ∧ p.rw = false then [(p.rs, p.dout)] else [])) ∧
  ((newEvents s u).length < n →
    f { s with upset := some (n, .rst) } = .next { u with upset := some (n - (newEvents s u).length, .rst) })

/-- What a second `op_valid` after `n` more events does to a step that without it answers `u` (R206). -/
def FaultByOpValid (f : State → Result) (s u : State) (n : Nat) : Prop :=
  (n ≤ (newEvents s u).length → f { s with upset := some (n, .opValid) } = .fault .opWhileBusy) ∧
  ((newEvents s u).length < n →
    f { s with upset := some (n, .opValid) } = .next { u with upset := some (n - (newEvents s u).length, .opValid) })

/-- The samples by which a device answers a status read with a status byte (R144, R145). -/
def answers (c : Cfg) (status : Byte) : List Byte :=
  match c.busWidth with
  | .eight => [status]
  | .four => [high status, low status]

/-- The samples by which a device answers polls, one after the other: the busy status bytes of each, then its ready one. -/
def pollAnswers (c : Cfg) (polls : List (List Byte × Byte)) : List Byte :=
  polls.flatMap fun p => (p.1 ++ [p.2]).flatMap (answers c)

/-- Enable pulses of one byte (R166, R217). -/
def pulses (c : Cfg) : Nat :=
  match c.busWidth with
  | .eight => 1
  | .four => 2

/-- The least duration of an operation with fixed delays (R217): the sum of its delays, `p` pulses for a byte. -/
def duration (c : Cfg) (i : Instr) : Nat :=
  match i with
  | .init _ _ =>
    (match c.busWidth with | .eight => 6 | .four => 11) * c.tPulse.toNat + c.tInit1.toNat + c.tInit2.toNat
      + c.tInit3.toNat + (match c.busWidth with | .eight => 2 | .four => 3) * c.tShort.toNat + c.tLong.toNat
  | i =>
    match transferOf c i with
    | some (_, _, t) => pulses c * c.tPulse.toNat + (settle c t).toNat
    | none => 0

/-- The number of events of an operation with fixed delays, and of its enable pulses (R166 and the table of spec/41). -/
def eventCounts (c : Cfg) (i : Instr) : Nat × Nat :=
  match i with
  | .init _ _ =>
    match c.busWidth with
    | .eight => (36, 6)
    | .four => (58, 11)
  | .backlight _ => (if c.hasBacklight then 1 else 0, 0)
  | i =>
    match transferOf c i with
    | some _ => (2 + 4 * pulses c, pulses c)
    | none => (0, 0)

end Sys2Proof.Expect

section

open Sys2Proof Sys2Proof.Machine Sys2Proof.Expect

/-! ## Encoding -/

/-- R80 to R82: the word of every operation, with every operand value, decodes to it. -/
def Obligations.EveryOperationDecodesFromItsWord : Prop :=
  ∀ i : Instr, decode (encode i) = .ok i

/-- R80 to R82, R93: a word that decodes is the word of the operation it decodes to: no bit is ignored. -/
def Obligations.DecodedWordIsTheEncodingOfItsOperation : Prop :=
  ∀ (w : Word) (i : Instr), decode w = .ok i → encode i = w

/-- R93 (with R8): a word decodes to an operation of the binding exactly when it passes the four checks. -/
def Obligations.LegalWordsAreExactlyTheDecodedOnes : Prop :=
  ∀ (c : Cfg) (w : Word), Legal c w ↔ ∃ i, decode w = .ok i ∧ i.wf c = true

/-- R82, R97: words written out bit by bit from the operand layout decode to the operations they stand for. -/
def Obligations.WrittenWordsDecode : Prop :=
  decode 0b0001000000000000 = .ok .clear ∧ decode 0b0010000000000000 = .ok .home ∧
  decode 0b0011000000000010 = .ok (.entry true false) ∧ decode 0b0100000000000100 = .ok (.display true false false) ∧
  decode 0b0101000000001000 = .ok (.shift true false) ∧ decode 0b0110000000001000 = .ok (.init true false) ∧
  decode 0b0111000000001000 = .ok (.setcg 8) ∧ decode 0b1000000001000000 = .ok (.setdd 0x40) ∧
  decode 0b1001000100000011 = .ok (.pos 1 3) ∧ decode 0b1010000001000001 = .ok (.write 0x41) ∧
  decode 0b1011000000000001 = .ok (.backlight true)

/-- R92: for the seven operations with operation codes 1 to 5, 7 and 8, the command byte the operation sends is
`(1 << (opc - 1)) | b` of its word, and `b` is below the selecting bit. The byte is read off `BYTE` after the completion,
which keeps it by the model's choice (log 18). -/
def Obligations.CommandByteIsSelectingBitWithOperand : Prop :=
  ∀ (s : State) (i : Instr), s.upset = none → s.cfg.canRead = false →
    opcOf (encode i) ∈ [1, 2, 3, 4, 5, 7, 8] →
    ∃ t, exec i s = .next t ∧ t.pins.rs = false ∧
      t.byte.toNat = 2 ^ (opcOf (encode i) - 1) ||| bOf (encode i) ∧ bOf (encode i) < 2 ^ (opcOf (encode i) - 1)

/-- R89: all eight function-set values. -/
def Obligations.FunctionSetTable : Prop :=
  Machine.functionSet .four false false = 0x20 ∧ Machine.functionSet .four false true = 0x24 ∧
  Machine.functionSet .four true false = 0x28 ∧ Machine.functionSet .four true true = 0x2C ∧
  Machine.functionSet .eight false false = 0x30 ∧ Machine.functionSet .eight false true = 0x34 ∧
  Machine.functionSet .eight true false = 0x38 ∧ Machine.functionSet .eight true true = 0x3C

/-- R83, R84: the class of the byte each operation sends. -/
def Obligations.CommandClassOfEachOperation : Prop :=
  classOf clearByte = some .clearDisplay ∧ classOf homeByte = some .returnHome ∧
  (∀ dir sh, classOf (entryByte dir sh) = some .entryModeSet) ∧
  (∀ on cur blk, classOf (displayByte on cur blk) = some .displayControl) ∧
  (∀ tgt rl, classOf (shiftByte tgt rl) = some .shiftCommand) ∧
  (∀ w n f, classOf (Machine.functionSet w n f) = some .functionSet) ∧
  (∀ a, classOf (cgByte a) = some .setCgramAddress) ∧ (∀ a, classOf (ddByte a) = some .setDdramAddress) ∧
  classOf 0 = none

/-! ## The step -/

/-- R33, R57 (and the model's host data, log 4): out of reset and idle, a step accepts the host's next word, the next of
its list or else of its cycle, into `OPR` and runs the operation it decodes to. -/
def Obligations.StepRunsTheDecodedOperation : Prop :=
  ∀ (s : State) (w : Word) (ws : List Word) (i : Instr),
    s.seq = .idle → s.words = w :: ws → s.upset ≠ some (0, .rst) → decode w = .ok i →
    step s = exec i { s with opr := w, host := ws, done := false }

/-- The same of the word that `withFetchWord` places, from every state (log 4): the step runs exactly it. -/
def Obligations.StepRunsThePlacedWord : Prop :=
  ∀ (s : State) (w : Word) (i : Instr), decode w = .ok i →
    step (s.withFetchWord 16 w.toNat) =
      exec i { s with
        seq := .idle, opr := w, done := false, upset := if s.upset = some (0, .rst) then none else s.upset }

/-- R93, R182, R186: an illegal word completes with `ILLEGAL_OPERATION` and does nothing else: no event, no pin. That `OPR`
keeps the word, and the other latches their values, is the model's choice (log 18). -/
def Obligations.IllegalWordCompletesWithNoEffect : Prop :=
  ∀ (s : State) (w : Word), s.seq = .idle → s.upset = none → ¬ Legal s.cfg w → Rejected s w

/-- R182: `ILLEGAL_OPERATION` is the status of exactly the words that fail a decode check of R93. -/
def Obligations.IllegalOperationIsExactlyAFailedDecodeCheck : Prop :=
  ∀ (s t : State) (w : Word) (ws : List Word),
    s.Ready → s.words = w :: ws → step s = .next t → t.done = true →
    (t.status = .illegalOperation ↔ ¬ Legal s.cfg w)

/-- R218 and log 4: an idle LCDC whose host has nothing to issue stays idle; `done` falls (log 13), everything else is held
(log 18, log 19, log 20). The model's choice. -/
def Obligations.IdleWithoutWordStaysIdle : Prop :=
  ∀ s : State, s.Ready → s.words = [] → step s = .next { s with done := false }

/-- R180, R186, R206, R192: a step always answers a next state, but for the fault that R206 asks for, and that one only
when a second `op_valid` is to come. -/
def Obligations.StepStopsOnlyOnASecondOpValid : Prop :=
  ∀ s : State, (∃ t, step s = .next t) ∨
    (step s = .fault .opWhileBusy ∧ ∃ n, s.upset = some (n, .opValid))

/-! ## The results of the operations -/

/-- R151, R152: CLEAR is the word 0x1000 and sends 0x01, HOME is 0x2000 and sends 0x02, both with the long tier; every
other word with their operation codes is rejected. The busy clause of `OneTransfer` (the step ends in the poll) is the
model's choice (log 2). -/
def Obligations.ClearAndHomeSendOneCommandWithTheLongTier : Prop :=
  ∀ s : State, s.Ready →
    (encode .clear = 0x1000 ∧ OneTransfer (exec .clear s) s false 0x01 .long ∧
      ∀ w, opcOf w = 1 → (aOf w ≠ 0 ∨ bOf w ≠ 0) → Rejected s w) ∧
    (encode .home = 0x2000 ∧ OneTransfer (exec .home s) s false 0x02 .long ∧
      ∀ w, opcOf w = 2 → (aOf w ≠ 0 ∨ bOf w ≠ 0) → Rejected s w)

/-- R153: ENTRY. The busy clause of `OneTransfer` (the step ends in the poll) is the model's choice (log 2). -/
def Obligations.EntrySendsTheEntryModeByte : Prop :=
  ∀ s : State, s.Ready →
    (∀ dir sh : Bool,
      (encode (.entry dir sh)).toNat = 0x3000 + 2 * bit dir + bit sh ∧
      OneTransfer (exec (.entry dir sh) s) s false (BitVec.ofNat 8 (0x04 + 2 * bit dir + bit sh)) .short) ∧
    ∀ w, opcOf w = 3 → (aOf w ≠ 0 ∨ bOf w / 4 ≠ 0) → Rejected s w

/-- R154: DISPLAY. The busy clause of `OneTransfer` (the step ends in the poll) is the model's choice (log 2). -/
def Obligations.DisplaySendsTheDisplayControlByte : Prop :=
  ∀ s : State, s.Ready →
    (∀ on cur blk : Bool,
      (encode (.display on cur blk)).toNat = 0x4000 + 4 * bit on + 2 * bit cur + bit blk ∧
      OneTransfer (exec (.display on cur blk) s) s false
        (BitVec.ofNat 8 (0x08 + 4 * bit on + 2 * bit cur + bit blk)) .short) ∧
    ∀ w, opcOf w = 4 → (aOf w ≠ 0 ∨ bOf w / 8 ≠ 0) → Rejected s w

/-- R155: SHIFT. The busy clause of `OneTransfer` (the step ends in the poll) is the model's choice (log 2). -/
def Obligations.ShiftSendsTheShiftByte : Prop :=
  ∀ s : State, s.Ready →
    (∀ tgt rl : Bool,
      (encode (.shift tgt rl)).toNat = 0x5000 + 8 * bit tgt + 4 * bit rl ∧
      OneTransfer (exec (.shift tgt rl) s) s false (BitVec.ofNat 8 (0x10 + 8 * bit tgt + 4 * bit rl)) .short) ∧
    ∀ w, opcOf w = 5 → (aOf w ≠ 0 ∨ bOf w &&& 0xF3 ≠ 0) → Rejected s w

/-- R156, R157: SETCG and SETDD, for every address. The busy clause of `OneTransfer` (the step ends in the poll) is the
model's choice (log 2). -/
def Obligations.AddressOperationsSendTheirAddressUnchecked : Prop :=
  ∀ s : State, s.Ready →
    (∀ a : BitVec 6, (encode (.setcg a)).toNat = 0x7000 + a.toNat ∧
      OneTransfer (exec (.setcg a) s) s false (BitVec.ofNat 8 (0x40 + a.toNat)) .short) ∧
    (∀ w, opcOf w = 7 → (aOf w ≠ 0 ∨ bOf w / 64 ≠ 0) → Rejected s w) ∧
    (∀ a : BitVec 7, (encode (.setdd a)).toNat = 0x8000 + a.toNat ∧
      OneTransfer (exec (.setdd a) s) s false (BitVec.ofNat 8 (0x80 + a.toNat)) .short) ∧
    ∀ w, opcOf w = 8 → (aOf w ≠ 0 ∨ bOf w / 128 ≠ 0) → Rejected s w

/-- R158: POS, on a legal configuration: every word of its operation code decodes; in range it sends the DDRAM address of
R51, out of range it completes with `INVALID_ARGUMENT` and does nothing else. The busy clause of `OneTransfer` (the step
ends in the poll) is the model's choice (log 2), as is what the latches keep (log 18). -/
def Obligations.PosSendsTheDdramAddressOrFails : Prop :=
  ∀ (s : State) (row : Nibble) (col : Byte), s.Ready → s.cfg.wf = true →
    (encode (.pos row col)).toNat = 0x9000 + 256 * row.toNat + col.toNat ∧
    (∀ w, opcOf w = 9 → ∃ r c, decode w = .ok (.pos r c) ∧ r.toNat = aOf w ∧ c.toNat = bOf w) ∧
    (row.toNat < s.cfg.rows → col.toNat < s.cfg.cols →
      OneTransfer (exec (.pos row col) s) s false (BitVec.ofNat 8 (0x80 + 0x40 * row.toNat + col.toNat)) .short) ∧
    (s.cfg.rows ≤ row.toNat ∨ s.cfg.cols ≤ col.toNat →
      exec (.pos row col) s = .next { s with status := .invalidArgument, done := true })

/-- R51, R163: in a legal configuration the address of POS is `ROW_BASE[row] + col`, at most 0x67: it never wraps. -/
def Obligations.PosAddressNeverWraps : Prop :=
  ∀ (c : Cfg) (row : Nibble) (col : Byte), c.wf = true → row.toNat < c.rows → col.toNat < c.cols →
    ∃ a, posAddress c row col = some a ∧ a.toNat = 0x40 * row.toNat + col.toNat ∧ a.toNat ≤ 0x67

/-- R159, R96: WRITE sends every byte unchanged with RS = 1; all 256 values are legal. The busy clause of `OneTransfer` (the
step ends in the poll) is the model's choice (log 2). -/
def Obligations.WriteSendsItsByteAsData : Prop :=
  ∀ s : State, s.Ready →
    (∀ b : Byte, (encode (.write b)).toNat = 0xA000 + b.toNat ∧ decode (encode (.write b)) = .ok (.write b) ∧
      OneTransfer (exec (.write b) s) s true b .short) ∧
    ∀ w, opcOf w = 10 → aOf w ≠ 0 → Rejected s w

/-- R161: BACKLIGHT with the line is the single event `BL=on`; without it, every word of its operation code is illegal. That
`exec` of BACKLIGHT answers `ILLEGAL_OPERATION` there, because this decode check stands in its meaning, is the model's
choice (log 10), as is that `OPR` and the other latches keep their values (log 18). -/
def Obligations.BacklightWritesItsLineAndNothingElse : Prop :=
  ∀ s : State, s.Ready →
    (∀ on : Bool, (encode (.backlight on)).toNat = 0xB000 + bit on ∧
      (s.cfg.hasBacklight = true → exec (.backlight on) s = .next
        { s with pins := { s.pins with bl := on }, status := .ok, done := true, trace := s.trace ++ [.bl on] }) ∧
      (s.cfg.hasBacklight = false →
        exec (.backlight on) s = .next { s with status := .illegalOperation, done := true })) ∧
    ∀ w, opcOf w = 11 → (s.cfg.hasBacklight = false ∨ aOf w ≠ 0 ∨ bOf w / 2 ≠ 0) → Rejected s w

/-- R130, R131, R132, R134: INIT on an 8-line bus with fixed delays. What the latches and `dly_us` keep after it is the
model's choice (log 18, log 20). -/
def Obligations.InitOnEightLinesWithFixedDelays : Prop :=
  ∀ (s : State) (n f : Bool), s.Ready → s.cfg.busWidth = .eight → s.cfg.canRead = false →
    exec (.init n f) s = .next
      { s with
        pins := { rs := false, en := false, rw := false, dout := 0x06, bl := s.pins.bl }
        byte := 0x06, tier := .short, status := .ok, done := true, dlyReq := false, dlyUs := s.cfg.tShort
        trace := s.trace ++ preamble s.cfg (Expect.functionSet s.cfg n f)
          ++ fixedEvents s.cfg 0x08 .short ++ fixedEvents s.cfg 0x01 .long ++ fixedEvents s.cfg 0x06 .short
        latched := s.latched ++ preambleLatches s.cfg (Expect.functionSet s.cfg n f)
          ++ [(false, 0x08), (false, 0x01), (false, 0x06)] }

/-- R130, R131, R133, R134: INIT on a 4-line bus with fixed delays: three single nibbles 0x2, the whole function set, the
bring-up. What the latches and `dly_us` keep after it is the model's choice (log 18, log 20). -/
def Obligations.InitOnFourLinesWithFixedDelays : Prop :=
  ∀ (s : State) (n f : Bool), s.Ready → s.cfg.busWidth = .four → s.cfg.canRead = false →
    exec (.init n f) s = .next
      { s with
        pins := { rs := false, en := false, rw := false, dout := 0x06, bl := s.pins.bl }
        byte := 0x06, tier := .short, status := .ok, done := true, dlyReq := false, dlyUs := s.cfg.tShort
        trace := s.trace ++ preamble s.cfg (Expect.functionSet s.cfg n f)
          ++ fixedEvents s.cfg (Expect.functionSet s.cfg n f) .short
          ++ fixedEvents s.cfg 0x08 .short ++ fixedEvents s.cfg 0x01 .long ++ fixedEvents s.cfg 0x06 .short
        latched := s.latched ++ [(false, 0x2), (false, 0x2), (false, 0x2)]
          ++ [(false, 0x2), (false, BitVec.ofNat 8 (8 * bit n + 4 * bit f))]
          ++ [(false, 0x0), (false, 0x8), (false, 0x0), (false, 0x1), (false, 0x0), (false, 0x6)] }

/-- R130, R132 to R135: INIT on a binding that can read, the device ready at every status read: fixed delays in the
preamble, a poll after every transfer that follows it. -/
def Obligations.InitWithPollingCompletesWhenTheDeviceIsReady : Prop :=
  ∀ (s : State) (n f : Bool), s.Ready → s.cfg.canRead = true →
    let fs := Expect.functionSet s.cfg n f
    let p := afterPreamble s fs
    let q := match s.cfg.busWidth with | .eight => p | .four => sentReady p false fs .short
    let q1 := sentReady q false 0x08 .short
    let q2 := sentReady q1 false 0x01 .long
    (s.cfg.busWidth = .four → ¬ busyNext p) → ¬ busyNext q → ¬ busyNext q1 → ¬ busyNext q2 →
    exec (.init n f) s = .next (completed (sentReady q2 false 0x06 .short))

/-- R130, R132 to R135, R142: INIT on a binding that can read, the device busy at the first status read: INIT is in the
poll, the rest of its transfers still to send. That the step ends there is the model's choice (log 2), as is what the
latches, `STATUS` and `dly_us` hold there (log 18, log 19, log 20). -/
def Obligations.InitWithPollingWaitsWhileTheDeviceIsBusy : Prop :=
  ∀ (s : State) (n f : Bool), s.Ready → s.cfg.canRead = true →
    let fs := Expect.functionSet s.cfg n f
    let p := afterPreamble s fs
    busyNext p →
    exec (.init n f) s = .next
      (match s.cfg.busWidth with
        | .eight => sentBusy p false 0x08 .short
            [{ rs := false, byte := 0x01, tier := .long }, { rs := false, byte := 0x06, tier := .short }]
        | .four => sentBusy p false fs .short
            [{ rs := false, byte := 0x08, tier := .short }, { rs := false, byte := 0x01, tier := .long },
             { rs := false, byte := 0x06, tier := .short }])

/-! ## The busy-flag poll -/

/-- R142, R146: in the poll, a busy status read leaves LCDC in the poll. That the read is one step (log 2), and that the byte
read is held in `S` up to the next read (log 18), `STATUS` (log 19) and `dly_us` (log 20) are held, are the model's
choices. -/
def Obligations.BusyStatusReadStaysInThePoll : Prop :=
  ∀ (s : State) (rest : List Xfer), s.InPoll rest → busyNext s → step s = .next (stillPolling s)

/-- R142, R116, R29: in the poll of the last transfer, a ready status read restores write direction, leaves no status byte
stored, and completes. What the latches (`RDH` is 0) and `dly_us` hold then is the model's choice (log 18, log 20). -/
def Obligations.ReadyStatusReadCompletesTheLastTransfer : Prop :=
  ∀ s : State, s.InPoll [] → ¬ busyNext s →
    step s = .next (completed (leftPoll s))

/-- R142, R114, R134, R29: in the poll of a transfer that others follow, a ready status read restores write direction, leaves
no status byte stored, and the next transfer is sent; if its own first status read is busy the step ends in its poll, if it is
ready the same step goes on to the transfer after it, and completes after the last. Where the step ends is the model's choice
(log 2), as is what the latches and `dly_us` hold (log 18, log 20). -/
def Obligations.ReadyStatusReadGoesOnToTheNextTransfer : Prop :=
  ∀ (s : State) (x : Xfer) (rest : List Xfer), s.InPoll (x :: rest) → ¬ busyNext s →
    step s = .next (sendAll (x :: rest) (leftPoll s))

/-- R146, R192, U1: while the device answers with busy status bytes, however many, LCDC polls: it is still in the poll, and
nothing is latched or completed. One step for each status read (log 2), and `STATUS` as before (log 19), are the model's
choices. -/
def Obligations.AStuckDeviceHangsThePoll : Prop :=
  ∀ (s : State) (rest : List Xfer) (busy later : List Byte), s.InPoll rest →
    (∀ v ∈ busy, v.getLsbD 7 = true) → s.din = busy.flatMap (answers s.cfg) ++ later →
    ∃ t, runSteps busy.length s = .next t ∧ t.seq = .polling rest ∧ t.pins = s.pins ∧ t.status = s.status ∧
      t.din = later ∧ t.latched = s.latched ∧
      t.trace.length = s.trace.length + 4 * pulses s.cfg * busy.length ∧
      (t.done = true → busy = [] ∧ s.done = true)

/-- R146, R166: on a binding that can read, an operation that is one transfer completes at the first status read that is
not busy, however many come before it, with `8 + 4k` events on 8 lines and `12 + 8k` on 4, `k` the number of reads. One step
for each of them is the model's choice (log 2). -/
def Obligations.TransferCompletesAtTheFirstReadyStatusRead : Prop :=
  ∀ (s : State) (i : Instr) (w : Word) (ws : List Word) (rs : Bool) (b : Byte) (t : Tier)
    (busy : List Byte) (ready : Byte) (later : List Byte),
    s.Ready → s.cfg.canRead = true → s.cfg.wf = true → s.words = w :: ws → decode w = .ok i →
    transferOf s.cfg i = some (rs, b, t) →
    (∀ v ∈ busy, v.getLsbD 7 = true) → ready.getLsbD 7 = false →
    s.din = (busy ++ [ready]).flatMap (answers s.cfg) ++ later →
    ∃ u, runSteps (busy.length + 1) s = .next u ∧ u.seq = .idle ∧ u.done = true ∧ u.status = .ok ∧ u.din = later ∧
      u.host = ws ∧ u.pins.rs = false ∧ u.pins.en = false ∧ u.pins.rw = false ∧
      u.latched = s.latched ++ latches s.cfg rs b ∧
      (newEvents s u).length = 4 + 4 * pulses s.cfg + 4 * pulses s.cfg * (busy.length + 1)

/-! ## The whole machine -/

/-- R32, R200: what reset leaves, for every configuration; the values of log 6 are left out. -/
def Obligations.ResetLeavesTheBusIdle : Prop :=
  ∀ c : Cfg, (State.resetWith c).pins = { rs := false, en := false, rw := false, dout := 0, bl := false } ∧
    (State.resetWith c).seq = .idle ∧ (State.resetWith c).opReady = true ∧ (State.resetWith c).done = false ∧
    (State.resetWith c).dlyReq = false ∧ (State.resetWith c).trace = [] ∧ (State.resetWith c).cfg = c

/-- The invariant holds at reset, for every legal configuration, the model's own among them, and no status byte is stored
(R29). -/
def Obligations.ResetMeetsTheInvariant : Prop :=
  (∀ c : Cfg, c.wf = true → (State.resetWith c).Inv ∧ (State.resetWith c).FlagOnlyInLoop) ∧
    State.reset.Inv ∧ State.reset.FlagOnlyInLoop

/-- R36, R21, R22, R35, R190, R134: every step keeps the invariant, whatever the environment does; and (R29) a status byte
is stored in the poll loop only. -/
def Obligations.EveryStepKeepsTheInvariant : Prop :=
  ∀ s t : State, s.Inv → step s = .next t → t.Inv ∧ (s.FlagOnlyInLoop → t.FlagOnlyInLoop)

/-- R24, R214: no step changes the configuration, reset included. -/
def Obligations.NoStepChangesTheConfiguration : Prop :=
  ∀ s t : State, step s = .next t → t.cfg = s.cfg

/-- R200, R201, R202: `rst` in any state between two events, also in the poll. When the outside asserts it is the model's
field `upset` (log 5). Of `IsReset`, these are the model's choices: in an idle state whose host has a word to issue, `rst`
comes before its acceptance and the host keeps it (log 11); whether the forced fall of EN adds an entry to what the device
latched (log 9), and with which values (log 21). -/
def Obligations.RstPutsEverythingAtItsResetValue : Prop :=
  ∀ s : State, s.upset = some (0, .rst) → ∃ t, step s = .next t ∧ IsReset s t

/-- R201: `rst` after `n` more events cuts an operation there, at its acceptance or in its poll: the first `n` events
occur, no other event and no completion does, and the pins have their reset values; an operation with fewer events in the
step is not cut in it. When the outside asserts `rst` is the model's field `upset` (log 5). That the word of an operation cut
before its first event is lost (log 11), and what the forced fall of EN adds to what the device latched (log 9, log 21), are
the model's choices. -/
def Obligations.RstCutsAnOperationBetweenTwoEvents : Prop :=
  ∀ (s u : State) (n : Nat), s.upset = none →
    (∀ i, exec i s = .next u → CutByRst (exec i) s u n) ∧
    (∀ rest, s.seq = .polling rest → step s = .next u → CutByRst step s u n)

/-- R206, U2: a second `op_valid` while the operation is in flight is a fault of the run, at any event of the operation's
step and of its poll; later than that it is none in that step. When the host raises it is the field `upset` (log 5). -/
def Obligations.SecondOpValidWhileBusyIsAFault : Prop :=
  ∀ (s u : State) (n : Nat), s.upset = none →
    (∀ i, exec i s = .next u → FaultByOpValid (exec i) s u n) ∧
    (∀ rest, s.seq = .polling rest → step s = .next u → FaultByOpValid step s u n)

/-- R21, R31, R62: a step only adds to the trace, the pins are those the new events write, and what the device latched is
the latch log of the new events. -/
def Obligations.PinsAndLatchesFollowTheTrace : Prop :=
  ∀ s t : State, s.upset = none → step s = .next t →
    ∃ es, t.trace = s.trace ++ es ∧ t.pins = s.pins.afterAll es ∧ t.latched = s.latched ++ latchLog s.pins es

/-- R119, R23: in every step from a good state, whatever the environment does, RS, the data lines, RW and BL are written
only with EN low, and between an `EN=1` and the following `EN=0` there is one `DLY(T_PULSE)` and, exactly in read
direction, one sample. -/
def Obligations.PinsAreStableWhileEnableIsHigh : Prop :=
  ∀ s t : State, s.Inv → step s = .next t →
    ∃ es, t.trace = s.trace ++ es ∧ disciplined s.cfg s.pins .low es = true

/-- R22: LCDC drives the lines with `PINS.dout` exactly while `PINS.rw` is 0; on a binding that cannot read no step writes
RW or samples the lines, `PINS.rw` stays 0 and the lines are always driven. -/
def Obligations.WithoutReadCapabilityNothingIsRead : Prop :=
  (∀ s : State, (s.pins.rw = false → s.dOe = true ∧ s.driven = some s.pins.dout) ∧
    (s.pins.rw = true → s.dOe = false ∧ s.driven = none)) ∧
  ∀ s t : State, s.Inv → s.cfg.canRead = false → step s = .next t →
    t.pins.rw = false ∧ t.driven = some t.pins.dout ∧ t.din = s.din ∧ t.samples = s.samples ∧
    ∃ es, t.trace = s.trace ++ es ∧ (∀ b, Event.rw b ∉ es) ∧ (∀ v, Event.inp v ∉ es)

/-- R140, R134, R135: on a binding that can read, every step that does not accept an INIT, the steps of every poll among
them, asks for no delay but the pulse width. An INIT asks for the delays of its preamble, which is the beginning of its
events, and after it for no delay but the pulse width. -/
def Obligations.APollingBindingAsksForNoTierDelay : Prop :=
  ∀ s t : State, s.cfg.canRead = true →
    (step s = .next t → ¬ AcceptsInit s → ∀ n, Event.dly n ∈ newEvents s t → n = s.cfg.tPulse) ∧
    (∀ i, (∀ l f, i ≠ .init l f) → exec i s = .next t → ∀ n, Event.dly n ∈ newEvents s t → n = s.cfg.tPulse) ∧
    (∀ l f, exec (.init l f) s = .next t →
      let es := preamble s.cfg (Expect.functionSet s.cfg l f)
      (∀ n, Event.dly n ∈ (newEvents s t).drop es.length → n = s.cfg.tPulse) ∧
      (s.upset = none → es <+: newEvents s t))

/-- R189: the arguments of delay requests are the six timing parameters. -/
def Obligations.DelaysAreTheTimingParameters : Prop :=
  ∀ (s t : State) (n : Micros), step s = .next t → Event.dly n ∈ newEvents s t →
    n ∈ [s.cfg.tPulse, s.cfg.tShort, s.cfg.tLong, s.cfg.tInit1, s.cfg.tInit2, s.cfg.tInit3]

/-- R94: what a step makes the device latch are whole bytes (one transfer on 8 lines, a pair of nibbles on 4), and every
one sent with RS = 0 is a command byte of the list; on 4 lines a step that accepts an INIT, and no other step, has three
lone nibbles 0x2 before them (R133). -/
def Obligations.OnlyListedCommandBytesAreSent : Prop :=
  ∀ s t : State, s.Inv → s.upset = none → step s = .next t →
    ∃ (lone : List (Bool × Byte)) (bytes : List (Bool × Byte)),
      t.latched = s.latched ++ lone ++ bytes.flatMap (fun x => latches s.cfg x.1 x.2) ∧
      (∀ b : Byte, (false, b) ∈ bytes → Emittable s.cfg.busWidth b) ∧
      (s.cfg.busWidth = .four ∧ AcceptsInit s → lone = [(false, 0x2), (false, 0x2), (false, 0x2)]) ∧
      (¬ (s.cfg.busWidth = .four ∧ AcceptsInit s) → lone = [])

/-- R186, R187: an operation that completes with an error status has no other effect: no event, no pin, no delay
request; the status is signalled with `done`, and LCDC is ready for the next operation. That `OPR` holds the word after the
completion, and the other latches their values, is the model's choice (log 18). -/
def Obligations.AnErrorCompletionChangesNothingElse : Prop :=
  ∀ (s t : State) (w : Word) (ws : List Word), s.seq = .idle → s.upset = none → s.words = w :: ws →
    step s = .next t → t.done = true → t.status ≠ .ok →
    t = { s with opr := w, host := ws, status := t.status, done := true } ∧ t.opReady = true

/-- R181: among the decoded operations only POS out of range completes with `INVALID_ARGUMENT`; and (R182, R161) only
BACKLIGHT without the line with `ILLEGAL_OPERATION`: that this check stands in the meaning of BACKLIGHT and not in the
decoder is the model's choice (log 10). -/
def Obligations.WhichOperationsCompleteWithAnError : Prop :=
  ∀ (s t : State) (i : Instr), s.cfg.wf = true → s.upset = none → s.done = false → exec i s = .next t →
    t.done = true →
    (t.status = .invalidArgument ↔
      ∃ row col, i = .pos row col ∧ (s.cfg.rows ≤ row.toNat ∨ s.cfg.cols ≤ col.toNat)) ∧
    (t.status = .illegalOperation ↔ ∃ on, i = .backlight on ∧ s.cfg.hasBacklight = false)

/-- R28, R180: the codes on the status port; 3 is never produced. -/
def Obligations.StatusCodesOnThePort : Prop :=
  Status.ok.code = 0 ∧ Status.invalidArgument.code = 1 ∧ Status.illegalOperation.code = 2 ∧ ∀ st : Status, st.code ≠ 3

/-- R190: no operation but BACKLIGHT writes the BL line. -/
def Obligations.OnlyBacklightWritesTheBacklightLine : Prop :=
  ∀ (s t : State) (i : Instr), (∀ on, i ≠ .backlight on) → s.upset = none → exec i s = .next t →
    t.pins.bl = s.pins.bl ∧ ∀ b, Event.bl b ∉ newEvents s t

/-- R20, R24, R31, R57: the frame of every operation. It leaves the configuration, `OPR`, the host's words, the cycles of
the environment and the absence of out-of-turn actions as they are; it takes answers of the device from the front only, of
those listed or, where these are used up, of the cycle; it only adds to the record. That `OPR` is as it was also after the
completion is the model's choice (log 18). -/
def Obligations.FrameOfEveryOperation : Prop :=
  ∀ (s t : State) (i : Instr), s.upset = none → exec i s = .next t →
    t.cfg = s.cfg ∧ t.opr = s.opr ∧ t.host = s.host ∧ t.hostCycle = s.hostCycle ∧ t.dinCycle = s.dinCycle ∧
    t.upset = none ∧ (t.din <:+ s.din ∨ t.din <:+ s.dinCycle) ∧ s.samples ≤ t.samples ∧
    s.trace <+: t.trace ∧ s.latched <+: t.latched

/-- R20, R150, R136: what an operation does depends on its operands, the configuration and the device's answers alone, not
on anything an earlier operation left. -/
def Obligations.NoOperationDependsOnEarlierOnes : Prop :=
  ∀ (s s' t : State) (i : Instr), s.Ready → s'.Ready → s.cfg = s'.cfg → s.din = s'.din → s.dinCycle = s'.dinCycle →
    s.samples = s'.samples → s.done = false → s'.done = false → exec i s = .next t →
    ∃ t', exec i s' = .next t' ∧ newEvents s t = newEvents s' t' ∧ t.seq = t'.seq ∧ t.done = t'.done ∧
      (t.done = true → t.status = t'.status)

/-- R217, R166 and the event counts of spec/41: with fixed delays, the least duration of every operation, its number of
events and its number of enable pulses. -/
def Obligations.DurationOfEveryOperationWithFixedDelays : Prop :=
  ∀ (s t : State) (i : Instr), s.Ready → s.cfg.canRead = false → s.cfg.wf = true → exec i s = .next t →
    tMin (newEvents s t) = duration s.cfg i ∧ (newEvents s t).length = (eventCounts s.cfg i).1 ∧
    enablePulses (newEvents s t) = (eventCounts s.cfg i).2

/-- R55: on a 4-line bus every step but one that accepts INIT makes an even number of enable pulses. -/
def Obligations.NibblesComeInPairsOutsideInit : Prop :=
  ∀ s t : State, s.cfg.busWidth = .four → s.upset = none → step s = .next t →
    ¬ AcceptsInit s →
    enablePulses (newEvents s t) % 2 = 0

/-- R147: on a binding with fixed delays an operation that sends one command byte ends with the long delay exactly for
the bytes 0x01 and 0x02, and with the short one for every other; a data byte, 0x01 and 0x02 among them, with the short
one. The byte and the tier are read off `BYTE` and `TIER` after the completion, which keep them by the model's choice
(log 18). -/
def Obligations.TheTierIsAFunctionOfTheCommandByte : Prop :=
  ∀ (s t : State) (i : Instr), s.upset = none → s.cfg.canRead = false → s.done = false →
    (∀ n f, i ≠ .init n f) → (∀ on, i ≠ .backlight on) → exec i s = .next t → t.status = .ok → t.done = true →
    (newEvents s t).getLast? = some (.dly
      (if t.pins.rs = false ∧ (t.byte = 0x01 ∨ t.byte = 0x02) then s.cfg.tLong else s.cfg.tShort)) ∧
    (t.pins.rs = false → t.tier = tierOf t.byte) ∧ (t.pins.rs = true → t.tier = .short)

/-- R98, R160: WRITESTR on a binding with fixed delays: the host's expansion runs as one data transfer for each character
in order, each with RS = 1. -/
def Obligations.WriteStringIsOneDataTransferPerCharacter : Prop :=
  ∀ (chars : List Byte) (s : State) (ws : List Word), s.Ready → s.cfg.canRead = false →
    s.host = writeStr chars ++ ws →
    ∃ t, runSteps chars.length s = .next t ∧ t.host = ws ∧ t.Ready ∧
      t.latched = s.latched ++ chars.flatMap (latches s.cfg true) ∧
      t.trace = s.trace ++ chars.flatMap (fun b => writeEvents s.cfg true b ++ [.dly s.cfg.tShort])

/-- R218, R36: when a run has ended well, EN and RW are low. That it has as soon as the host's list and cycle are empty and
LCDC is idle, also where the host may decide on more words later, is the model's choice (log 4). -/
def Obligations.AWellEndedRunLeavesTheBusIdle : Prop :=
  ∀ s t : State, s.Inv → step s = .next t → t.endedWell = true → t.pins.en = false ∧ t.pins.rw = false

/-! ## Polls without bound, and whole runs -/

/-- R130, R132 to R135, R142, R146: INIT on a binding that can read, whatever number of busy status reads each of its polls
has before its ready one: three polls on 8 lines, four on 4. It completes with `OK`, has used exactly these answers, and
has latched the preamble and its bytes once each. The number of steps is the model's choice (log 2). -/
def Obligations.InitCompletesAfterAnyBusyReads : Prop :=
  ∀ (s : State) (w : Word) (ws : List Word) (n f : Bool) (polls : List (List Byte × Byte)) (later : List Byte),
    s.Ready → s.cfg.canRead = true → s.words = w :: ws → decode w = .ok (.init n f) →
    polls.length = (match s.cfg.busWidth with | .eight => 3 | .four => 4) →
    (∀ p ∈ polls, (∀ v ∈ p.1, v.getLsbD 7 = true) ∧ p.2.getLsbD 7 = false) →
    s.din = pollAnswers s.cfg polls ++ later →
    let fs := Expect.functionSet s.cfg n f
    ∃ u, runSteps (1 + (polls.map fun p => p.1.length).sum) s = .next u ∧ u.seq = .idle ∧ u.done = true ∧
      u.status = .ok ∧ u.din = later ∧ u.host = ws ∧ u.pins.rs = false ∧ u.pins.en = false ∧ u.pins.rw = false ∧
      u.latched = s.latched ++ preambleLatches s.cfg fs
        ++ (match s.cfg.busWidth with | .eight => [] | .four => latches s.cfg false fs)
        ++ latches s.cfg false 0x08 ++ latches s.cfg false 0x01 ++ latches s.cfg false 0x06 ∧
      (newEvents s u).length = 18
        + (polls.map fun p => 4 + 4 * pulses s.cfg + 4 * pulses s.cfg * (p.1.length + 1)).sum

/-- R146, R192, U1: one device whose busy answers never end (its listed answers are busy, and so is the cycle after them,
log 3) keeps LCDC in the poll for ever: after every number of steps, one status read each (log 2), it is there, the lines
released, nothing latched and nothing completed. -/
def Obligations.AnUnendingBusyAnswerNeverEndsThePoll : Prop :=
  ∀ (s : State) (rest : List Xfer) (now cycle : List Byte), s.InPoll rest → cycle ≠ [] →
    (∀ v ∈ now ++ cycle, v.getLsbD 7 = true) →
    s.din = now.flatMap (answers s.cfg) → s.dinCycle = cycle.flatMap (answers s.cfg) →
    ∀ k, ∃ t, runSteps k s = .next t ∧ t.InPoll rest ∧ t.opReady = false ∧ t.pins = s.pins ∧ t.driven = none ∧
      t.latched = s.latched ∧ t.trace.length = s.trace.length + 4 * pulses s.cfg * k ∧
      (t.done = true → k = 0 ∧ s.done = true)

/-- R146, R23: on every legal binding that can read and for every operation that performs a transfer, there is an infinite
run that never completes it, for every infinite sequence of busy status bytes that the device answers: the operation is
accepted in the first step, and after each step (one status read, log 2) LCDC is in the poll with that byte read, `op_ready`
and `done` low, RW high and the lines released. What the environment supplies is `Supplied` (log 3, log 4, log 5).
The byte read is seen by `S`, which is held in the loop up to the next read by the model's choice (log 18). -/
def Obligations.EveryTransferHasARunThatNeverCompletes : Prop :=
  ∀ (c : Cfg) (i : Instr) (busy : Nat → Byte), c.wf = true → c.canRead = true →
    (transferOf c i ≠ none ∨ ∃ n f, i = .init n f) → (∀ n, (busy n).getLsbD 7 = true) →
    ∃ f : Nat → State, IsRun c f ∧ ∀ n, (f (n + 1)).opr = encode i ∧ (∃ rest, (f (n + 1)).InPoll rest) ∧
      (f (n + 1)).sts = some (busy n) ∧ (f (n + 1)).opReady = false ∧ (f (n + 1)).done = false ∧
      (f (n + 1)).driven = none

/-- R218, R33, R57: on every legal binding every infinite sequence of operation words the host may choose, legal or not,
occurs as an infinite run: each word is accepted after the one before it has completed, and completes (on a binding that
can read, with a device that answers ready). One step for each operation is the model's choice (log 2), and that the word
was accepted is seen by `OPR`, which keeps it after the completion by the model's choice (log 18). -/
def Obligations.EveryInfiniteSequenceOfWordsIsARun : Prop :=
  ∀ (c : Cfg) (ws : Nat → Word), c.wf = true →
    ∃ f : Nat → State, IsRun c f ∧ ∀ n, (f (n + 1)).opr = ws n ∧ (f (n + 1)).done = true ∧ (f (n + 1)).seq = .idle

/-- R218, R36, R24, R29, R31: in every infinite run, whatever the host, the device and the outside do on its way, every state
meets the invariant, stores a status byte in the poll loop only and has the run's configuration, the trace only grows, and
where the run has ended well EN and RW are low. That a run has ended well at each of its moments at which LCDC is idle and no
word is pending, though its host decides on more words later, is the model's choice (log 4). -/
def Obligations.EveryRunKeepsTheInvariant : Prop :=
  ∀ (c : Cfg) (f : Nat → State), c.wf = true → IsRun c f →
    ∀ n, (f n).Inv ∧ (f n).FlagOnlyInLoop ∧ (f n).cfg = c ∧ (f n).trace <+: (f (n + 1)).trace ∧
      ((f n).endedWell = true → (f n).pins.en = false ∧ (f n).pins.rw = false)

end
end

