-- ==== Sys2Proof/Laws/Encoding.lean ====
section
/-! SUPPORT. The three fields of an operation word (R80), put together and taken apart, and as numbers. -/

namespace Sys2Proof

@[simp] theorem opcField_mkWord (o : BitVec 4) (a : Nibble) (b : Byte) : opcField (mkWord o a b) = o := by
  unfold opcField mkWord
  ext i hi
  interval_cases i <;> simp [BitVec.getLsbD_eq_getElem]

@[simp] theorem aField_mkWord (o : BitVec 4) (a : Nibble) (b : Byte) : aField (mkWord o a b) = a := by
  unfold aField mkWord
  ext i hi
  interval_cases i <;> simp [BitVec.getLsbD_eq_getElem]

@[simp] theorem bField_mkWord (o : BitVec 4) (a : Nibble) (b : Byte) : bField (mkWord o a b) = b := by
  unfold bField mkWord
  ext i hi
  interval_cases i <;> simp [BitVec.getLsbD_eq_getElem]

/-- A word is its three fields. -/
theorem mkWord_fields (w : Word) : mkWord (opcField w) (aField w) (bField w) = w := by
  unfold opcField aField bField mkWord
  ext i hi
  interval_cases i <;> simp [BitVec.getLsbD_eq_getElem]

theorem opcField_toNat (w : Word) : (opcField w).toNat = w.toNat / 4096 := by
  have := w.isLt
  simp [opcField, Nat.shiftRight_eq_div_pow]
  omega

theorem aField_toNat (w : Word) : (aField w).toNat = w.toNat / 256 % 16 := by
  simp [aField, Nat.shiftRight_eq_div_pow]

theorem bField_toNat (w : Word) : (bField w).toNat = w.toNat % 256 := by
  simp [bField]

end Sys2Proof
end

