-- ==== Sys2Proof/Laws/State.lean ====
section
/-! SUPPORT. What each update of the state changes, field by field, and what reset leaves. -/

namespace Sys2Proof.Machine

variable (s : State)

@[simp] theorem answerUsed_cfg : (answerUsed s).cfg = s.cfg := by unfold answerUsed; split <;> rfl
@[simp] theorem answerUsed_pins : (answerUsed s).pins = s.pins := by unfold answerUsed; split <;> rfl
@[simp] theorem answerUsed_seq : (answerUsed s).seq = s.seq := by unfold answerUsed; split <;> rfl
@[simp] theorem answerUsed_opr : (answerUsed s).opr = s.opr := by unfold answerUsed; split <;> rfl
@[simp] theorem answerUsed_byte : (answerUsed s).byte = s.byte := by unfold answerUsed; split <;> rfl
@[simp] theorem answerUsed_tier : (answerUsed s).tier = s.tier := by unfold answerUsed; split <;> rfl
@[simp] theorem answerUsed_rdh : (answerUsed s).rdh = s.rdh := by unfold answerUsed; split <;> rfl
@[simp] theorem answerUsed_sts : (answerUsed s).sts = s.sts := by unfold answerUsed; split <;> rfl
@[simp] theorem answerUsed_status : (answerUsed s).status = s.status := by unfold answerUsed; split <;> rfl
@[simp] theorem answerUsed_done : (answerUsed s).done = s.done := by unfold answerUsed; split <;> rfl
@[simp] theorem answerUsed_dlyReq : (answerUsed s).dlyReq = s.dlyReq := by unfold answerUsed; split <;> rfl
@[simp] theorem answerUsed_dlyUs : (answerUsed s).dlyUs = s.dlyUs := by unfold answerUsed; split <;> rfl
@[simp] theorem answerUsed_host : (answerUsed s).host = s.host := by unfold answerUsed; split <;> rfl
@[simp] theorem answerUsed_upset : (answerUsed s).upset = s.upset := by unfold answerUsed; split <;> rfl
@[simp] theorem answerUsed_hostCycle : (answerUsed s).hostCycle = s.hostCycle := by unfold answerUsed; split <;> rfl
@[simp] theorem answerUsed_dinCycle : (answerUsed s).dinCycle = s.dinCycle := by unfold answerUsed; split <;> rfl
@[simp] theorem answerUsed_trace : (answerUsed s).trace = s.trace := by unfold answerUsed; split <;> rfl
@[simp] theorem answerUsed_latched : (answerUsed s).latched = s.latched := by unfold answerUsed; split <;> rfl

@[simp] theorem emit_cfg (e : Event) : (emit e s).cfg = s.cfg := rfl
@[simp] theorem emit_pins (e : Event) : (emit e s).pins = s.pins := rfl
@[simp] theorem emit_seq (e : Event) : (emit e s).seq = s.seq := rfl
@[simp] theorem emit_opr (e : Event) : (emit e s).opr = s.opr := rfl
@[simp] theorem emit_byte (e : Event) : (emit e s).byte = s.byte := rfl
@[simp] theorem emit_tier (e : Event) : (emit e s).tier = s.tier := rfl
@[simp] theorem emit_rdh (e : Event) : (emit e s).rdh = s.rdh := rfl
@[simp] theorem emit_sts (e : Event) : (emit e s).sts = s.sts := rfl
@[simp] theorem emit_status (e : Event) : (emit e s).status = s.status := rfl
@[simp] theorem emit_done (e : Event) : (emit e s).done = s.done := rfl
@[simp] theorem emit_dlyReq (e : Event) : (emit e s).dlyReq = s.dlyReq := rfl
@[simp] theorem emit_dlyUs (e : Event) : (emit e s).dlyUs = s.dlyUs := rfl
@[simp] theorem emit_host (e : Event) : (emit e s).host = s.host := rfl
@[simp] theorem emit_upset (e : Event) : (emit e s).upset = tick s.upset := rfl
@[simp] theorem emit_din (e : Event) : (emit e s).din = s.din := rfl
@[simp] theorem emit_samples (e : Event) : (emit e s).samples = s.samples := rfl
@[simp] theorem emit_hostCycle (e : Event) : (emit e s).hostCycle = s.hostCycle := rfl
@[simp] theorem emit_dinCycle (e : Event) : (emit e s).dinCycle = s.dinCycle := rfl
@[simp] theorem emit_trace (e : Event) : (emit e s).trace = s.trace ++ [e] := rfl
@[simp] theorem emit_latched (e : Event) : (emit e s).latched = s.latched := rfl

@[simp] theorem setRS_cfg (b : Bool) : (setRS b s).cfg = s.cfg := rfl
@[simp] theorem setRS_pins (b : Bool) : (setRS b s).pins = { s.pins with rs := b } := rfl
@[simp] theorem setRS_seq (b : Bool) : (setRS b s).seq = s.seq := rfl
@[simp] theorem setRS_opr (b : Bool) : (setRS b s).opr = s.opr := rfl
@[simp] theorem setRS_byte (b : Bool) : (setRS b s).byte = s.byte := rfl
@[simp] theorem setRS_tier (b : Bool) : (setRS b s).tier = s.tier := rfl
@[simp] theorem setRS_rdh (b : Bool) : (setRS b s).rdh = s.rdh := rfl
@[simp] theorem setRS_sts (b : Bool) : (setRS b s).sts = s.sts := rfl
@[simp] theorem setRS_status (b : Bool) : (setRS b s).status = s.status := rfl
@[simp] theorem setRS_done (b : Bool) : (setRS b s).done = s.done := rfl
@[simp] theorem setRS_dlyReq (b : Bool) : (setRS b s).dlyReq = s.dlyReq := rfl
@[simp] theorem setRS_dlyUs (b : Bool) : (setRS b s).dlyUs = s.dlyUs := rfl
@[simp] theorem setRS_host (b : Bool) : (setRS b s).host = s.host := rfl
@[simp] theorem setRS_upset (b : Bool) : (setRS b s).upset = tick s.upset := rfl
@[simp] theorem setRS_din (b : Bool) : (setRS b s).din = s.din := rfl
@[simp] theorem setRS_samples (b : Bool) : (setRS b s).samples = s.samples := rfl
@[simp] theorem setRS_hostCycle (b : Bool) : (setRS b s).hostCycle = s.hostCycle := rfl
@[simp] theorem setRS_dinCycle (b : Bool) : (setRS b s).dinCycle = s.dinCycle := rfl
@[simp] theorem setRS_trace (b : Bool) : (setRS b s).trace = s.trace ++ [.rs b] := rfl
@[simp] theorem setRS_latched (b : Bool) : (setRS b s).latched = s.latched := rfl

@[simp] theorem setEN_cfg (b : Bool) : (setEN b s).cfg = s.cfg := rfl
@[simp] theorem setEN_pins (b : Bool) : (setEN b s).pins = { s.pins with en := b } := rfl
@[simp] theorem setEN_seq (b : Bool) : (setEN b s).seq = s.seq := rfl
@[simp] theorem setEN_opr (b : Bool) : (setEN b s).opr = s.opr := rfl
@[simp] theorem setEN_byte (b : Bool) : (setEN b s).byte = s.byte := rfl
@[simp] theorem setEN_tier (b : Bool) : (setEN b s).tier = s.tier := rfl
@[simp] theorem setEN_rdh (b : Bool) : (setEN b s).rdh = s.rdh := rfl
@[simp] theorem setEN_sts (b : Bool) : (setEN b s).sts = s.sts := rfl
@[simp] theorem setEN_status (b : Bool) : (setEN b s).status = s.status := rfl
@[simp] theorem setEN_done (b : Bool) : (setEN b s).done = s.done := rfl
@[simp] theorem setEN_dlyReq (b : Bool) : (setEN b s).dlyReq = s.dlyReq := rfl
@[simp] theorem setEN_dlyUs (b : Bool) : (setEN b s).dlyUs = s.dlyUs := rfl
@[simp] theorem setEN_host (b : Bool) : (setEN b s).host = s.host := rfl
@[simp] theorem setEN_upset (b : Bool) : (setEN b s).upset = tick s.upset := rfl
@[simp] theorem setEN_din (b : Bool) : (setEN b s).din = s.din := rfl
@[simp] theorem setEN_samples (b : Bool) : (setEN b s).samples = s.samples := rfl
@[simp] theorem setEN_hostCycle (b : Bool) : (setEN b s).hostCycle = s.hostCycle := rfl
@[simp] theorem setEN_dinCycle (b : Bool) : (setEN b s).dinCycle = s.dinCycle := rfl
@[simp] theorem setEN_trace (b : Bool) : (setEN b s).trace = s.trace ++ [.en b] := rfl
@[simp] theorem setEN_latched (b : Bool) : (setEN b s).latched = s.latched ++ latchedAt s.pins b := rfl

@[simp] theorem setRW_cfg (b : Bool) : (setRW b s).cfg = s.cfg := rfl
@[simp] theorem setRW_pins (b : Bool) : (setRW b s).pins = { s.pins with rw := b } := rfl
@[simp] theorem setRW_seq (b : Bool) : (setRW b s).seq = s.seq := rfl
@[simp] theorem setRW_opr (b : Bool) : (setRW b s).opr = s.opr := rfl
@[simp] theorem setRW_byte (b : Bool) : (setRW b s).byte = s.byte := rfl
@[simp] theorem setRW_tier (b : Bool) : (setRW b s).tier = s.tier := rfl
@[simp] theorem setRW_rdh (b : Bool) : (setRW b s).rdh = s.rdh := rfl
@[simp] theorem setRW_sts (b : Bool) : (setRW b s).sts = s.sts := rfl
@[simp] theorem setRW_status (b : Bool) : (setRW b s).status = s.status := rfl
@[simp] theorem setRW_done (b : Bool) : (setRW b s).done = s.done := rfl
@[simp] theorem setRW_dlyReq (b : Bool) : (setRW b s).dlyReq = s.dlyReq := rfl
@[simp] theorem setRW_dlyUs (b : Bool) : (setRW b s).dlyUs = s.dlyUs := rfl
@[simp] theorem setRW_host (b : Bool) : (setRW b s).host = s.host := rfl
@[simp] theorem setRW_upset (b : Bool) : (setRW b s).upset = tick s.upset := rfl
@[simp] theorem setRW_din (b : Bool) : (setRW b s).din = s.din := rfl
@[simp] theorem setRW_samples (b : Bool) : (setRW b s).samples = s.samples := rfl
@[simp] theorem setRW_hostCycle (b : Bool) : (setRW b s).hostCycle = s.hostCycle := rfl
@[simp] theorem setRW_dinCycle (b : Bool) : (setRW b s).dinCycle = s.dinCycle := rfl
@[simp] theorem setRW_trace (b : Bool) : (setRW b s).trace = s.trace ++ [.rw b] := rfl
@[simp] theorem setRW_latched (b : Bool) : (setRW b s).latched = s.latched := rfl

@[simp] theorem setBL_cfg (b : Bool) : (setBL b s).cfg = s.cfg := rfl
@[simp] theorem setBL_pins (b : Bool) : (setBL b s).pins = { s.pins with bl := b } := rfl
@[simp] theorem setBL_seq (b : Bool) : (setBL b s).seq = s.seq := rfl
@[simp] theorem setBL_opr (b : Bool) : (setBL b s).opr = s.opr := rfl
@[simp] theorem setBL_byte (b : Bool) : (setBL b s).byte = s.byte := rfl
@[simp] theorem setBL_tier (b : Bool) : (setBL b s).tier = s.tier := rfl
@[simp] theorem setBL_rdh (b : Bool) : (setBL b s).rdh = s.rdh := rfl
@[simp] theorem setBL_sts (b : Bool) : (setBL b s).sts = s.sts := rfl
@[simp] theorem setBL_status (b : Bool) : (setBL b s).status = s.status := rfl
@[simp] theorem setBL_done (b : Bool) : (setBL b s).done = s.done := rfl
@[simp] theorem setBL_dlyReq (b : Bool) : (setBL b s).dlyReq = s.dlyReq := rfl
@[simp] theorem setBL_dlyUs (b : Bool) : (setBL b s).dlyUs = s.dlyUs := rfl
@[simp] theorem setBL_host (b : Bool) : (setBL b s).host = s.host := rfl
@[simp] theorem setBL_upset (b : Bool) : (setBL b s).upset = tick s.upset := rfl
@[simp] theorem setBL_din (b : Bool) : (setBL b s).din = s.din := rfl
@[simp] theorem setBL_samples (b : Bool) : (setBL b s).samples = s.samples := rfl
@[simp] theorem setBL_hostCycle (b : Bool) : (setBL b s).hostCycle = s.hostCycle := rfl
@[simp] theorem setBL_dinCycle (b : Bool) : (setBL b s).dinCycle = s.dinCycle := rfl
@[simp] theorem setBL_trace (b : Bool) : (setBL b s).trace = s.trace ++ [.bl b] := rfl
@[simp] theorem setBL_latched (b : Bool) : (setBL b s).latched = s.latched := rfl

@[simp] theorem drive_cfg (v : Byte) : (drive v s).cfg = s.cfg := rfl
@[simp] theorem drive_pins (v : Byte) : (drive v s).pins = { s.pins with dout := v } := rfl
@[simp] theorem drive_seq (v : Byte) : (drive v s).seq = s.seq := rfl
@[simp] theorem drive_opr (v : Byte) : (drive v s).opr = s.opr := rfl
@[simp] theorem drive_byte (v : Byte) : (drive v s).byte = s.byte := rfl
@[simp] theorem drive_tier (v : Byte) : (drive v s).tier = s.tier := rfl
@[simp] theorem drive_rdh (v : Byte) : (drive v s).rdh = s.rdh := rfl
@[simp] theorem drive_sts (v : Byte) : (drive v s).sts = s.sts := rfl
@[simp] theorem drive_status (v : Byte) : (drive v s).status = s.status := rfl
@[simp] theorem drive_done (v : Byte) : (drive v s).done = s.done := rfl
@[simp] theorem drive_dlyReq (v : Byte) : (drive v s).dlyReq = s.dlyReq := rfl
@[simp] theorem drive_dlyUs (v : Byte) : (drive v s).dlyUs = s.dlyUs := rfl
@[simp] theorem drive_host (v : Byte) : (drive v s).host = s.host := rfl
@[simp] theorem drive_upset (v : Byte) : (drive v s).upset = tick s.upset := rfl
@[simp] theorem drive_din (v : Byte) : (drive v s).din = s.din := rfl
@[simp] theorem drive_samples (v : Byte) : (drive v s).samples = s.samples := rfl
@[simp] theorem drive_hostCycle (v : Byte) : (drive v s).hostCycle = s.hostCycle := rfl
@[simp] theorem drive_dinCycle (v : Byte) : (drive v s).dinCycle = s.dinCycle := rfl
@[simp] theorem drive_trace (v : Byte) : (drive v s).trace = s.trace ++ [.d v] := rfl
@[simp] theorem drive_latched (v : Byte) : (drive v s).latched = s.latched := rfl

@[simp] theorem request_cfg (n : Micros) : (request n s).cfg = s.cfg := rfl
@[simp] theorem request_pins (n : Micros) : (request n s).pins = s.pins := rfl
@[simp] theorem request_seq (n : Micros) : (request n s).seq = s.seq := rfl
@[simp] theorem request_opr (n : Micros) : (request n s).opr = s.opr := rfl
@[simp] theorem request_byte (n : Micros) : (request n s).byte = s.byte := rfl
@[simp] theorem request_tier (n : Micros) : (request n s).tier = s.tier := rfl
@[simp] theorem request_rdh (n : Micros) : (request n s).rdh = s.rdh := rfl
@[simp] theorem request_sts (n : Micros) : (request n s).sts = s.sts := rfl
@[simp] theorem request_status (n : Micros) : (request n s).status = s.status := rfl
@[simp] theorem request_done (n : Micros) : (request n s).done = s.done := rfl
@[simp] theorem request_dlyReq (n : Micros) : (request n s).dlyReq = true := rfl
@[simp] theorem request_dlyUs (n : Micros) : (request n s).dlyUs = n := rfl
@[simp] theorem request_host (n : Micros) : (request n s).host = s.host := rfl
@[simp] theorem request_upset (n : Micros) : (request n s).upset = tick s.upset := rfl
@[simp] theorem request_din (n : Micros) : (request n s).din = s.din := rfl
@[simp] theorem request_samples (n : Micros) : (request n s).samples = s.samples := rfl
@[simp] theorem request_hostCycle (n : Micros) : (request n s).hostCycle = s.hostCycle := rfl
@[simp] theorem request_dinCycle (n : Micros) : (request n s).dinCycle = s.dinCycle := rfl
@[simp] theorem request_trace (n : Micros) : (request n s).trace = s.trace ++ [.dly n] := rfl
@[simp] theorem request_latched (n : Micros) : (request n s).latched = s.latched := rfl

@[simp] theorem awaitDelay_cfg : (awaitDelay s).cfg = s.cfg := rfl
@[simp] theorem awaitDelay_pins : (awaitDelay s).pins = s.pins := rfl
@[simp] theorem awaitDelay_seq : (awaitDelay s).seq = s.seq := rfl
@[simp] theorem awaitDelay_opr : (awaitDelay s).opr = s.opr := rfl
@[simp] theorem awaitDelay_byte : (awaitDelay s).byte = s.byte := rfl
@[simp] theorem awaitDelay_tier : (awaitDelay s).tier = s.tier := rfl
@[simp] theorem awaitDelay_rdh : (awaitDelay s).rdh = s.rdh := rfl
@[simp] theorem awaitDelay_sts : (awaitDelay s).sts = s.sts := rfl
@[simp] theorem awaitDelay_status : (awaitDelay s).status = s.status := rfl
@[simp] theorem awaitDelay_done : (awaitDelay s).done = s.done := rfl
@[simp] theorem awaitDelay_dlyReq : (awaitDelay s).dlyReq = false := rfl
@[simp] theorem awaitDelay_dlyUs : (awaitDelay s).dlyUs = s.dlyUs := rfl
@[simp] theorem awaitDelay_host : (awaitDelay s).host = s.host := rfl
@[simp] theorem awaitDelay_upset : (awaitDelay s).upset = s.upset := rfl
@[simp] theorem awaitDelay_din : (awaitDelay s).din = s.din := rfl
@[simp] theorem awaitDelay_samples : (awaitDelay s).samples = s.samples := rfl
@[simp] theorem awaitDelay_hostCycle : (awaitDelay s).hostCycle = s.hostCycle := rfl
@[simp] theorem awaitDelay_dinCycle : (awaitDelay s).dinCycle = s.dinCycle := rfl
@[simp] theorem awaitDelay_trace : (awaitDelay s).trace = s.trace := rfl
@[simp] theorem awaitDelay_latched : (awaitDelay s).latched = s.latched := rfl

@[simp] theorem sample_cfg : (sample s).cfg = s.cfg := by simp [sample, emit]
@[simp] theorem sample_pins : (sample s).pins = s.pins := by simp [sample, emit]
@[simp] theorem sample_seq : (sample s).seq = s.seq := by simp [sample, emit]
@[simp] theorem sample_opr : (sample s).opr = s.opr := by simp [sample, emit]
@[simp] theorem sample_byte : (sample s).byte = s.byte := by simp [sample, emit]
@[simp] theorem sample_tier : (sample s).tier = s.tier := by simp [sample, emit]
@[simp] theorem sample_rdh : (sample s).rdh = s.rdh := by simp [sample, emit]
@[simp] theorem sample_sts : (sample s).sts = s.sts := by simp [sample, emit]
@[simp] theorem sample_status : (sample s).status = s.status := by simp [sample, emit]
@[simp] theorem sample_done : (sample s).done = s.done := by simp [sample, emit]
@[simp] theorem sample_dlyReq : (sample s).dlyReq = s.dlyReq := by simp [sample, emit]
@[simp] theorem sample_dlyUs : (sample s).dlyUs = s.dlyUs := by simp [sample, emit]
@[simp] theorem sample_host : (sample s).host = s.host := by simp [sample, emit]
@[simp] theorem sample_upset : (sample s).upset = tick s.upset := by simp [sample, emit]
@[simp] theorem sample_din : (sample s).din = (answerUsed s).din := rfl
@[simp] theorem sample_samples : (sample s).samples = (answerUsed s).samples := rfl
@[simp] theorem sample_hostCycle : (sample s).hostCycle = s.hostCycle := by simp [sample, emit]
@[simp] theorem sample_dinCycle : (sample s).dinCycle = s.dinCycle := by simp [sample, emit]
@[simp] theorem sample_trace : (sample s).trace = s.trace ++ [.inp (lineValue s)] := by simp [sample, emit]
@[simp] theorem sample_latched : (sample s).latched = s.latched := by simp [sample, emit]

@[simp] theorem complete_cfg (st : Status) : (complete st s).cfg = s.cfg := rfl
@[simp] theorem complete_pins (st : Status) : (complete st s).pins = s.pins := rfl
@[simp] theorem complete_seq (st : Status) : (complete st s).seq = .idle := rfl
@[simp] theorem complete_opr (st : Status) : (complete st s).opr = s.opr := rfl
@[simp] theorem complete_byte (st : Status) : (complete st s).byte = s.byte := rfl
@[simp] theorem complete_tier (st : Status) : (complete st s).tier = s.tier := rfl
@[simp] theorem complete_rdh (st : Status) : (complete st s).rdh = s.rdh := rfl
@[simp] theorem complete_sts (st : Status) : (complete st s).sts = s.sts := rfl
@[simp] theorem complete_status (st : Status) : (complete st s).status = st := rfl
@[simp] theorem complete_done (st : Status) : (complete st s).done = true := rfl
@[simp] theorem complete_dlyReq (st : Status) : (complete st s).dlyReq = s.dlyReq := rfl
@[simp] theorem complete_dlyUs (st : Status) : (complete st s).dlyUs = s.dlyUs := rfl
@[simp] theorem complete_host (st : Status) : (complete st s).host = s.host := rfl
@[simp] theorem complete_upset (st : Status) : (complete st s).upset = s.upset := rfl
@[simp] theorem complete_din (st : Status) : (complete st s).din = s.din := rfl
@[simp] theorem complete_samples (st : Status) : (complete st s).samples = s.samples := rfl
@[simp] theorem complete_hostCycle (st : Status) : (complete st s).hostCycle = s.hostCycle := rfl
@[simp] theorem complete_dinCycle (st : Status) : (complete st s).dinCycle = s.dinCycle := rfl
@[simp] theorem complete_trace (st : Status) : (complete st s).trace = s.trace := rfl
@[simp] theorem complete_latched (st : Status) : (complete st s).latched = s.latched := rfl

@[simp] theorem accept_cfg (w : Word) (ws : List Word) : (accept w ws s).cfg = s.cfg := rfl
@[simp] theorem accept_pins (w : Word) (ws : List Word) : (accept w ws s).pins = s.pins := rfl
@[simp] theorem accept_seq (w : Word) (ws : List Word) : (accept w ws s).seq = s.seq := rfl
@[simp] theorem accept_opr (w : Word) (ws : List Word) : (accept w ws s).opr = w := rfl
@[simp] theorem accept_byte (w : Word) (ws : List Word) : (accept w ws s).byte = s.byte := rfl
@[simp] theorem accept_tier (w : Word) (ws : List Word) : (accept w ws s).tier = s.tier := rfl
@[simp] theorem accept_rdh (w : Word) (ws : List Word) : (accept w ws s).rdh = s.rdh := rfl
@[simp] theorem accept_sts (w : Word) (ws : List Word) : (accept w ws s).sts = s.sts := rfl
@[simp] theorem accept_status (w : Word) (ws : List Word) : (accept w ws s).status = s.status := rfl
@[simp] theorem accept_done (w : Word) (ws : List Word) : (accept w ws s).done = false := rfl
@[simp] theorem accept_dlyReq (w : Word) (ws : List Word) : (accept w ws s).dlyReq = s.dlyReq := rfl
@[simp] theorem accept_dlyUs (w : Word) (ws : List Word) : (accept w ws s).dlyUs = s.dlyUs := rfl
@[simp] theorem accept_host (w : Word) (ws : List Word) : (accept w ws s).host = ws := rfl
@[simp] theorem accept_upset (w : Word) (ws : List Word) : (accept w ws s).upset = s.upset := rfl
@[simp] theorem accept_din (w : Word) (ws : List Word) : (accept w ws s).din = s.din := rfl
@[simp] theorem accept_samples (w : Word) (ws : List Word) : (accept w ws s).samples = s.samples := rfl
@[simp] theorem accept_hostCycle (w : Word) (ws : List Word) : (accept w ws s).hostCycle = s.hostCycle := rfl
@[simp] theorem accept_dinCycle (w : Word) (ws : List Word) : (accept w ws s).dinCycle = s.dinCycle := rfl
@[simp] theorem accept_trace (w : Word) (ws : List Word) : (accept w ws s).trace = s.trace := rfl
@[simp] theorem accept_latched (w : Word) (ws : List Word) : (accept w ws s).latched = s.latched := rfl

@[simp] theorem clearDone_cfg : (clearDone s).cfg = s.cfg := rfl
@[simp] theorem clearDone_pins : (clearDone s).pins = s.pins := rfl
@[simp] theorem clearDone_seq : (clearDone s).seq = s.seq := rfl
@[simp] theorem clearDone_opr : (clearDone s).opr = s.opr := rfl
@[simp] theorem clearDone_byte : (clearDone s).byte = s.byte := rfl
@[simp] theorem clearDone_tier : (clearDone s).tier = s.tier := rfl
@[simp] theorem clearDone_rdh : (clearDone s).rdh = s.rdh := rfl
@[simp] theorem clearDone_sts : (clearDone s).sts = s.sts := rfl
@[simp] theorem clearDone_status : (clearDone s).status = s.status := rfl
@[simp] theorem clearDone_done : (clearDone s).done = false := rfl
@[simp] theorem clearDone_dlyReq : (clearDone s).dlyReq = s.dlyReq := rfl
@[simp] theorem clearDone_dlyUs : (clearDone s).dlyUs = s.dlyUs := rfl
@[simp] theorem clearDone_host : (clearDone s).host = s.host := rfl
@[simp] theorem clearDone_upset : (clearDone s).upset = s.upset := rfl
@[simp] theorem clearDone_din : (clearDone s).din = s.din := rfl
@[simp] theorem clearDone_samples : (clearDone s).samples = s.samples := rfl
@[simp] theorem clearDone_hostCycle : (clearDone s).hostCycle = s.hostCycle := rfl
@[simp] theorem clearDone_dinCycle : (clearDone s).dinCycle = s.dinCycle := rfl
@[simp] theorem clearDone_trace : (clearDone s).trace = s.trace := rfl
@[simp] theorem clearDone_latched : (clearDone s).latched = s.latched := rfl

@[simp] theorem leavePoll_cfg : (leavePoll s).cfg = s.cfg := rfl
@[simp] theorem leavePoll_pins : (leavePoll s).pins = s.pins := rfl
@[simp] theorem leavePoll_seq : (leavePoll s).seq = s.seq := rfl
@[simp] theorem leavePoll_opr : (leavePoll s).opr = s.opr := rfl
@[simp] theorem leavePoll_byte : (leavePoll s).byte = s.byte := rfl
@[simp] theorem leavePoll_tier : (leavePoll s).tier = s.tier := rfl
@[simp] theorem leavePoll_rdh : (leavePoll s).rdh = 0 := rfl
@[simp] theorem leavePoll_sts : (leavePoll s).sts = none := rfl
@[simp] theorem leavePoll_status : (leavePoll s).status = s.status := rfl
@[simp] theorem leavePoll_done : (leavePoll s).done = s.done := rfl
@[simp] theorem leavePoll_dlyReq : (leavePoll s).dlyReq = s.dlyReq := rfl
@[simp] theorem leavePoll_dlyUs : (leavePoll s).dlyUs = s.dlyUs := rfl
@[simp] theorem leavePoll_host : (leavePoll s).host = s.host := rfl
@[simp] theorem leavePoll_upset : (leavePoll s).upset = s.upset := rfl
@[simp] theorem leavePoll_din : (leavePoll s).din = s.din := rfl
@[simp] theorem leavePoll_samples : (leavePoll s).samples = s.samples := rfl
@[simp] theorem leavePoll_hostCycle : (leavePoll s).hostCycle = s.hostCycle := rfl
@[simp] theorem leavePoll_dinCycle : (leavePoll s).dinCycle = s.dinCycle := rfl
@[simp] theorem leavePoll_trace : (leavePoll s).trace = s.trace := rfl
@[simp] theorem leavePoll_latched : (leavePoll s).latched = s.latched := rfl

@[simp] theorem applyReset_cfg : (applyReset s).cfg = s.cfg := rfl
@[simp] theorem applyReset_pins : (applyReset s).pins = Pins.reset := rfl
@[simp] theorem applyReset_seq : (applyReset s).seq = .idle := rfl
@[simp] theorem applyReset_opr : (applyReset s).opr = 0 := rfl
@[simp] theorem applyReset_byte : (applyReset s).byte = 0 := rfl
@[simp] theorem applyReset_tier : (applyReset s).tier = .short := rfl
@[simp] theorem applyReset_rdh : (applyReset s).rdh = 0 := rfl
@[simp] theorem applyReset_sts : (applyReset s).sts = none := rfl
@[simp] theorem applyReset_status : (applyReset s).status = .ok := rfl
@[simp] theorem applyReset_done : (applyReset s).done = false := rfl
@[simp] theorem applyReset_dlyReq : (applyReset s).dlyReq = false := rfl
@[simp] theorem applyReset_dlyUs : (applyReset s).dlyUs = 0 := rfl
@[simp] theorem applyReset_host : (applyReset s).host = s.host := rfl
@[simp] theorem applyReset_upset : (applyReset s).upset = none := rfl
@[simp] theorem applyReset_din : (applyReset s).din = s.din := rfl
@[simp] theorem applyReset_samples : (applyReset s).samples = s.samples := rfl
@[simp] theorem applyReset_hostCycle : (applyReset s).hostCycle = s.hostCycle := rfl
@[simp] theorem applyReset_dinCycle : (applyReset s).dinCycle = s.dinCycle := rfl
@[simp] theorem applyReset_trace : (applyReset s).trace = s.trace := rfl
@[simp] theorem applyReset_latched : (applyReset s).latched = s.latched ++ forcedLatch s.pins := rfl

@[simp] theorem stillBusy_some {s : State} {b : Byte} (h : s.sts = some b) : stillBusy s = busyFlag b := by
  simp [stillBusy, h]

@[simp] theorem stillBusy_none {s : State} (h : s.sts = none) : stillBusy s = false := by simp [stillBusy, h]

@[simp] theorem tick_none : tick none = none := rfl

@[simp] theorem upsetNow_of_calm (h : s.upset = none) : upsetNow s = none := by simp [upsetNow, h]

@[simp] theorem pending_nil {α : Type} (cycle : List α) : pending [] cycle = cycle := rfl

@[simp] theorem pending_cons {α : Type} (x : α) (xs cycle : List α) : pending (x :: xs) cycle = x :: xs := rfl

@[simp] theorem pending_empty_cycle {α : Type} (now : List α) : pending now [] = now := by cases now <;> rfl

@[simp] theorem pending_eq_nil {α : Type} (now cycle : List α) :
    pending now cycle = [] ↔ now = [] ∧ cycle = [] := by
  cases now <;> simp

/-- What comes next is what is listed or, where nothing is, the cycle. -/
theorem pending_cases {α : Type} (now cycle : List α) :
    pending now cycle = now ∨ (now = [] ∧ pending now cycle = cycle) := by
  cases now <;> simp

/-- The answers of the device that are left do not depend on anything but those that were there. -/
theorem answerUsed_congr {s t : State} (hd : s.din = t.din) (hk : s.dinCycle = t.dinCycle)
    (hs : s.samples = t.samples) :
    (answerUsed s).din = (answerUsed t).din ∧ (answerUsed s).samples = (answerUsed t).samples := by
  unfold answerUsed State.answers
  rw [hd, hk]
  cases pending t.din t.dinCycle <;> simp [hs]

/-- What the lines show depends only on the configuration and the device's answers. -/
theorem lineValue_congr {s t : State} (hc : s.cfg = t.cfg) (hd : s.din = t.din) (hk : s.dinCycle = t.dinCycle)
    (hs : s.samples = t.samples) : lineValue s = lineValue t := by
  unfold lineValue State.answers
  rw [hd, hk, hc, hs]

end Sys2Proof.Machine
end

