-- ==== Sys2Proof/Laws/Ops.lean ====
section
/-! SUPPORT. What the shared operations can do, said once: what every micro-step leaves alone, what a run of a sequence can
answer, and how a sequence without an exit test runs. -/

namespace Sys2Proof.Machine

/-- The micro-steps of a sequence one after the other, nothing out of turn. -/
def runPrims (ps : List Prim) (s : State) : State := ps.foldl (fun s p => doPrim p s) s

@[simp] theorem runPrims_nil (s : State) : runPrims [] s = s := rfl

@[simp] theorem runPrims_cons (p : Prim) (ps : List Prim) (s : State) :
    runPrims (p :: ps) s = runPrims ps (doPrim p s) := rfl

theorem runPrims_append (ps qs : List Prim) (s : State) :
    runPrims (ps ++ qs) s = runPrims qs (runPrims ps s) := by simp [runPrims]

/-! ## What every micro-step leaves alone -/

@[simp] theorem sampleByte_cfg (s : State) : (sampleByte s).cfg = s.cfg := by simp [sampleByte]
@[simp] theorem sampleHigh_cfg (s : State) : (sampleHigh s).cfg = s.cfg := by simp [sampleHigh]
@[simp] theorem sampleLow_cfg (s : State) : (sampleLow s).cfg = s.cfg := by simp [sampleLow]

@[simp] theorem doPrim_cfg (p : Prim) (s : State) : (doPrim p s).cfg = s.cfg := by cases p <;> simp [doPrim]

@[simp] theorem doPrim_host (p : Prim) (s : State) : (doPrim p s).host = s.host := by
  cases p <;> simp [doPrim, sampleByte, sampleHigh, sampleLow]

@[simp] theorem doPrim_hostCycle (p : Prim) (s : State) : (doPrim p s).hostCycle = s.hostCycle := by
  cases p <;> simp [doPrim, sampleByte, sampleHigh, sampleLow]

@[simp] theorem doPrim_dinCycle (p : Prim) (s : State) : (doPrim p s).dinCycle = s.dinCycle := by
  cases p <;> simp [doPrim, sampleByte, sampleHigh, sampleLow]

@[simp] theorem doPrim_opr (p : Prim) (s : State) : (doPrim p s).opr = s.opr := by
  cases p <;> simp [doPrim, sampleByte, sampleHigh, sampleLow]

@[simp] theorem runPrims_cfg (ps : List Prim) (s : State) : (runPrims ps s).cfg = s.cfg := by
  induction ps generalizing s with
  | nil => rfl
  | cons p ps ih => simp [ih]

@[simp] theorem runPrims_host (ps : List Prim) (s : State) : (runPrims ps s).host = s.host := by
  induction ps generalizing s with
  | nil => rfl
  | cons p ps ih => simp [ih]

@[simp] theorem runPrims_hostCycle (ps : List Prim) (s : State) : (runPrims ps s).hostCycle = s.hostCycle := by
  induction ps generalizing s with
  | nil => rfl
  | cons p ps ih => simp [ih]

@[simp] theorem runPrims_dinCycle (ps : List Prim) (s : State) : (runPrims ps s).dinCycle = s.dinCycle := by
  induction ps generalizing s with
  | nil => rfl
  | cons p ps ih => simp [ih]

/-- Without an out-of-turn action to come, none comes (log 5). -/
theorem doPrim_calm (p : Prim) {s : State} (h : s.upset = none) : (doPrim p s).upset = none := by
  cases p <;> simp [doPrim, sampleByte, sampleHigh, sampleLow, h]

theorem runPrims_calm (ps : List Prim) {s : State} (h : s.upset = none) : (runPrims ps s).upset = none := by
  induction ps generalizing s with
  | nil => exact h
  | cons p ps ih => exact ih (doPrim_calm p h)

/-! ## How a sequence runs -/

/-- A micro-step that is not an exit test of the poll. -/
def Prim.plain : Prim → Bool
  | .pollTest _ => false
  | .loadByte _ => true
  | .loadTier _ => true
  | .setRS _ => true
  | .setEN _ => true
  | .setRW _ => true
  | .setBL _ => true
  | .driveByte => true
  | .driveHigh => true
  | .driveLow => true
  | .request _ => true
  | .requestTier => true
  | .await => true
  | .sampleByte => true
  | .sampleHigh => true
  | .sampleLow => true
  | .complete _ => true

theorem runScript_plain_cons {p : Prim} (hp : p.plain = true) (ps : List Prim) {s : State} (h : s.upset = none) :
    runScript (p :: ps) s = runScript ps (doPrim p s) := by
  cases p <;> simp_all [runScript, Prim.plain]

/-- A sequence without an exit test runs to its end, then what follows it runs. -/
theorem runScript_plain_append {ps : List Prim} (hp : ps.all Prim.plain = true) (qs : List Prim) {s : State}
    (h : s.upset = none) : runScript (ps ++ qs) s = runScript qs (runPrims ps s) := by
  induction ps generalizing s with
  | nil => rfl
  | cons p ps ih =>
    simp only [List.all_cons, Bool.and_eq_true] at hp
    simp only [List.cons_append, runScript_plain_cons hp.1 _ h, runPrims_cons]
    exact ih hp.2 (doPrim_calm p h)

/-- The exit test of the poll (R142, R146): busy ends the step in the loop, ready goes on. -/
theorem runScript_pollTest (rest : List Xfer) (ps : List Prim) {s : State} (h : s.upset = none) :
    runScript (.pollTest rest :: ps) s =
      if stillBusy s then .next { s with seq := .polling rest } else runScript ps (leavePoll s) := by
  simp [runScript, h, doPrim]

/-! ## What a run can answer -/

/-- The due out-of-turn action is the one in `upset`. -/
theorem upsetNow_eq_some {s : State} {u : Upset} : upsetNow s = some u ↔ s.upset = some (0, u) := by
  unfold upsetNow
  split <;> simp_all

/-- Everything a run of a sequence can answer. A next state is the reset state reached after part of the sequence (R201),
or the poll loop at an exit test that found the device busy (R142), or the end of the sequence. -/
theorem runScript_next_cases {ps : List Prim} {s t : State} (h : runScript ps s = .next t) :
    (∃ pre post, ps = pre ++ post ∧ (runPrims pre s).upset = some (0, .rst) ∧ t = applyReset (runPrims pre s)) ∨
    (∃ pre rest post, ps = pre ++ .pollTest rest :: post ∧ stillBusy (runPrims pre s) = true ∧
      t = { runPrims pre s with seq := .polling rest }) ∨
    t = runPrims ps s := by
  induction ps generalizing s with
  | nil => right; right; simp only [runScript, Host.Outcome.next.injEq] at h; exact h.symm
  | cons p ps ih =>
    have go : ∀ s', s' = doPrim p s → runScript ps s' = .next t →
        (∃ pre post, p :: ps = pre ++ post ∧ (runPrims pre s).upset = some (0, .rst) ∧
          t = applyReset (runPrims pre s)) ∨
        (∃ pre rest post, p :: ps = pre ++ .pollTest rest :: post ∧ stillBusy (runPrims pre s) = true ∧
          t = { runPrims pre s with seq := .polling rest }) ∨ t = runPrims (p :: ps) s := by
      rintro s' rfl h'
      obtain ⟨pre, post, rfl, hu, ht⟩ | ⟨pre, rest, post, rfl, hb, ht⟩ | ht := ih h'
      · exact .inl ⟨p :: pre, post, rfl, hu, ht⟩
      · exact .inr (.inl ⟨p :: pre, rest, post, rfl, hb, ht⟩)
      · exact .inr (.inr ht)
    unfold runScript at h
    split at h
    · rename_i hu
      simp only [Host.Outcome.next.injEq] at h
      exact .inl ⟨[], p :: ps, rfl, upsetNow_eq_some.mp hu, h.symm⟩
    · simp at h
    · split at h
      · split at h
        · rename_i rest hb
          simp only [Host.Outcome.next.injEq] at h
          exact .inr (.inl ⟨[], rest, ps, rfl, hb, h.symm⟩)
        · exact go _ rfl h
      · exact go _ rfl h

/-- A run never refuses, and its only fault is the one of R206, with the second `op_valid` to come. -/
theorem runScript_answers (ps : List Prim) (s : State) :
    (∃ t, runScript ps s = .next t) ∨
    (runScript ps s = .fault .opWhileBusy ∧ ∃ pre post, ps = pre ++ post ∧
      (runPrims pre s).upset = some (0, .opValid)) := by
  induction ps generalizing s with
  | nil => exact .inl ⟨s, rfl⟩
  | cons p ps ih =>
    have go : (∃ t, runScript ps (doPrim p s) = .next t) ∨
        (runScript ps (doPrim p s) = .fault .opWhileBusy ∧ ∃ pre post, p :: ps = pre ++ post ∧
          (runPrims pre s).upset = some (0, .opValid)) := by
      obtain h | ⟨h, pre, post, rfl, hu⟩ := ih (doPrim p s)
      · exact .inl h
      · exact .inr ⟨h, p :: pre, post, rfl, hu⟩
    unfold runScript
    split
    · exact .inl ⟨_, rfl⟩
    · rename_i hu
      exact .inr ⟨rfl, [], p :: ps, rfl, upsetNow_eq_some.mp hu⟩
    · split
      · split
        · exact .inl ⟨_, rfl⟩
        · exact go
      · exact go

end Sys2Proof.Machine
end

