-- ==== Sys2Proof/Laws/PerInstr.lean ====
section
/-! SUPPORT. Statements made of each operation as syntax, one lemma for each constructor. -/

namespace Sys2Proof.Laws.Fields

/-- The fields of an operation's word obey the decode checks of R93: its own operation code, no reserved bit of `b`, and
no `a` outside POS. -/
def Statement (i : Instr) : Prop :=
  opcField (encode i) = i.opc ∧ (∃ m, resMask i.opc = some m ∧ bField (encode i) &&& m = 0) ∧
    (i.opc ≠ 9 → aField (encode i) = 0)

theorem clear : Statement .clear := ⟨rfl, ⟨_, rfl, rfl⟩, fun _ => rfl⟩

theorem home : Statement .home := ⟨rfl, ⟨_, rfl, rfl⟩, fun _ => rfl⟩

theorem entry (dir sh : Bool) : Statement (.entry dir sh) := by
  cases dir <;> cases sh <;> exact ⟨rfl, ⟨_, rfl, rfl⟩, fun _ => rfl⟩

theorem display (on cur blk : Bool) : Statement (.display on cur blk) := by
  cases on <;> cases cur <;> cases blk <;> exact ⟨rfl, ⟨_, rfl, rfl⟩, fun _ => rfl⟩

theorem shift (tgt rl : Bool) : Statement (.shift tgt rl) := by
  cases tgt <;> cases rl <;> exact ⟨rfl, ⟨_, rfl, rfl⟩, fun _ => rfl⟩

theorem init (n f : Bool) : Statement (.init n f) := by
  cases n <;> cases f <;> exact ⟨rfl, ⟨_, rfl, rfl⟩, fun _ => rfl⟩

theorem setcg (addr6 : BitVec 6) : Statement (.setcg addr6) := by
  refine ⟨opcField_mkWord _ _ _, ⟨0xC0, rfl, ?_⟩, fun _ => aField_mkWord _ _ _⟩
  simp only [encode, bField_mkWord, Instr.fieldB]
  revert addr6
  decide

theorem setdd (addr7 : BitVec 7) : Statement (.setdd addr7) := by
  refine ⟨opcField_mkWord _ _ _, ⟨0x80, rfl, ?_⟩, fun _ => aField_mkWord _ _ _⟩
  simp only [encode, bField_mkWord, Instr.fieldB]
  revert addr7
  decide

theorem pos (row : Nibble) (col : Byte) : Statement (.pos row col) :=
  ⟨opcField_mkWord _ _ _, ⟨0, rfl, BitVec.and_zero⟩, fun h => absurd rfl h⟩

theorem write (data : Byte) : Statement (.write data) :=
  ⟨opcField_mkWord _ _ _, ⟨0, rfl, BitVec.and_zero⟩, fun _ => aField_mkWord _ _ _⟩

theorem backlight (on : Bool) : Statement (.backlight on) := by
  cases on <;> exact ⟨rfl, ⟨_, rfl, rfl⟩, fun _ => rfl⟩

end Sys2Proof.Laws.Fields
end

