-- ==== Sys2Proof/Laws/Step.lean ====
section
/-! SUPPORT. What a step can do, said once: which of its four cases it takes, and that all that runs is a sequence of
micro-steps, so that `runScript_next_cases` says the rest. -/

namespace Sys2Proof.Machine

/-- A word that is listed comes before any cycle (log 4). -/
theorem words_of_host {s : State} {w : Word} {ws : List Word} (h : s.host = w :: ws) : s.words = w :: ws := by
  simp [State.words, h]

/-- An answer that is listed comes before any cycle (log 3). -/
theorem answers_of_din {s : State} {v : Byte} {vs : List Byte} (h : s.din = v :: vs) : s.answers = v :: vs := by
  simp [State.answers, h]

/-- Without an out-of-turn action to come, a step is LCDC's own. -/
theorem step_of_calm {s : State} (h : s.upset = none) : step s = advance s := by simp [step, sequence, h]

/-- Every operation is a sequence of micro-steps. -/
theorem exec_is_script (i : Instr) (s : State) : ∃ ps, exec i s = runScript ps s := by
  cases i with
  | init n f => simp only [exec, execInit]; split <;> exact ⟨_, rfl⟩
  | pos row col => simp only [exec, execPos, failWith, runTransfers]; split <;> exact ⟨_, rfl⟩
  | backlight on => simp only [exec, execBacklight, failWith]; split <;> exact ⟨_, rfl⟩
  | _ => exact ⟨_, rfl⟩

/-- So is what the accepted word does, legal or not. -/
theorem runAccepted_is_script (s : State) : ∃ ps, runAccepted s = runScript ps s := by
  unfold runAccepted
  split
  · exact exec_is_script _ _
  · exact ⟨_, rfl⟩

/-- Everything a step that goes on can be: `rst`, an idle LCDC with no word to accept, the next status read of a poll, or
the acceptance of the host's next word. -/
theorem step_next_cases {s t : State} (h : step s = .next t) :
    (s.upset = some (0, .rst) ∧ t = applyReset s) ∨
    (s.seq = .idle ∧ s.words = [] ∧ t = clearDone s) ∨
    (∃ rest, s.seq = .polling rest ∧ resumePoll rest (clearDone s) = .next t) ∨
    (∃ w ws, s.seq = .idle ∧ s.words = w :: ws ∧ runAccepted (accept w ws s) = .next t) := by
  unfold step sequence at h
  split at h
  · rename_i hu
    simp only [Host.Outcome.next.injEq] at h
    exact .inl ⟨hu, h.symm⟩
  · unfold advance at h
    split at h
    · rename_i rest hs
      exact .inr (.inr (.inl ⟨rest, hs, h⟩))
    · rename_i hs
      split at h
      · rename_i hw
        simp only [Host.Outcome.next.injEq] at h
        exact .inr (.inl ⟨hs, hw, h.symm⟩)
      · rename_i w ws hw
        exact .inr (.inr (.inr ⟨w, ws, hs, hw, h⟩))

end Sys2Proof.Machine
end

