-- ==== Sys2Proof/Laws/Trace.lean ====
section
/-! SUPPORT. What each micro-step, and each sequence of them, adds to the record: its events, and the pins and the latch
log that follow from them (R14, R21, R31, R62). -/

namespace Sys2Proof.Machine

/-- The events of one micro-step: at most one (R14). -/
def primEvents (p : Prim) (s : State) : List Event :=
  match p with
  | .loadByte _ => []
  | .loadTier _ => []
  | .setRS b => [.rs b]
  | .setEN b => [.en b]
  | .setRW b => [.rw b]
  | .setBL b => [.bl b]
  | .driveByte => [.d s.byte]
  | .driveHigh => [.d ((highNibble s.byte).setWidth 8)]
  | .driveLow => [.d ((lowNibble s.byte).setWidth 8)]
  | .request n => [.dly n]
  | .requestTier => [.dly (tierDelay s.cfg s.tier)]
  | .await => []
  | .sampleByte => [.inp (lineValue s)]
  | .sampleHigh => [.inp (lineValue s)]
  | .sampleLow => [.inp (lineValue s)]
  | .pollTest _ => []
  | .complete _ => []

/-- The events of a sequence of micro-steps. -/
def scriptEvents : List Prim → State → List Event
  | [], _ => []
  | p :: ps, s => primEvents p s ++ scriptEvents ps (doPrim p s)

theorem primEvents_length_le (p : Prim) (s : State) : (primEvents p s).length ≤ 1 := by
  cases p <;> simp [primEvents]

theorem afterAll_append (p : Pins) (es fs : List Event) : p.afterAll (es ++ fs) = (p.afterAll es).afterAll fs := by
  simp [Pins.afterAll]

theorem latchLog_append (p : Pins) (es fs : List Event) :
    latchLog p (es ++ fs) = latchLog p es ++ latchLog (p.afterAll es) fs := by
  induction es generalizing p with
  | nil => rfl
  | cons e es ih => simp [latchLog, ih, Pins.afterAll]

theorem doPrim_trace (p : Prim) (s : State) : (doPrim p s).trace = s.trace ++ primEvents p s := by
  cases p <;> simp [doPrim, primEvents, sampleByte, sampleHigh, sampleLow]

theorem doPrim_pins (p : Prim) (s : State) : (doPrim p s).pins = s.pins.afterAll (primEvents p s) := by
  cases p <;> simp [doPrim, primEvents, sampleByte, sampleHigh, sampleLow, Pins.afterAll, Pins.after]

theorem doPrim_latched (p : Prim) (s : State) :
    (doPrim p s).latched = s.latched ++ latchLog s.pins (primEvents p s) := by
  cases p with
  | setEN b => cases b <;> simp [doPrim, primEvents, latchLog, latchEntry, latchedAt, forcedLatch]
  | _ => simp [doPrim, primEvents, sampleByte, sampleHigh, sampleLow, latchLog, latchEntry]

theorem runPrims_trace (ps : List Prim) (s : State) : (runPrims ps s).trace = s.trace ++ scriptEvents ps s := by
  induction ps generalizing s with
  | nil => simp [scriptEvents]
  | cons p ps ih => simp [scriptEvents, ih, doPrim_trace]

theorem runPrims_pins (ps : List Prim) (s : State) : (runPrims ps s).pins = s.pins.afterAll (scriptEvents ps s) := by
  induction ps generalizing s with
  | nil => simp [scriptEvents, Pins.afterAll]
  | cons p ps ih => simp only [scriptEvents, runPrims_cons, ih, doPrim_pins, afterAll_append]

theorem runPrims_latched (ps : List Prim) (s : State) :
    (runPrims ps s).latched = s.latched ++ latchLog s.pins (scriptEvents ps s) := by
  induction ps generalizing s with
  | nil => simp [scriptEvents, latchLog]
  | cons p ps ih =>
    simp only [scriptEvents, runPrims_cons, ih, doPrim_latched, doPrim_pins, latchLog_append, List.append_assoc]

/-- The answers of the device are taken from the front of those listed or, once these are used up, of its cycle. -/
theorem answerUsed_answers (s : State) :
    ((answerUsed s).din <:+ s.din ∨ (answerUsed s).din <:+ s.dinCycle) ∧ s.samples ≤ (answerUsed s).samples := by
  unfold answerUsed State.answers
  cases s.din with
  | cons v vs => simp
  | nil => cases h : s.dinCycle <;> simp

theorem doPrim_answers (p : Prim) (s : State) :
    ((doPrim p s).din <:+ s.din ∨ (doPrim p s).din <:+ s.dinCycle) ∧ s.samples ≤ (doPrim p s).samples := by
  have h := answerUsed_answers s
  cases p <;> simp [doPrim, sampleByte, sampleHigh, sampleLow, h]

theorem runPrims_answers (ps : List Prim) (s : State) :
    ((runPrims ps s).din <:+ s.din ∨ (runPrims ps s).din <:+ s.dinCycle) ∧ s.samples ≤ (runPrims ps s).samples := by
  induction ps generalizing s with
  | nil => simp
  | cons p ps ih =>
    have hp := doPrim_answers p s
    have hr := ih (doPrim p s)
    simp only [doPrim_dinCycle] at hr
    refine ⟨?_, hp.2.trans hr.2⟩
    rcases hr.1 with h | h
    · exact hp.1.imp h.trans h.trans
    · exact .inr h

end Sys2Proof.Machine
end

