-- ==== Sys2Proof/Laws/Transfers.lean ====
section
/-! SUPPORT. The effect of each procedure of the transfer engine (R110 to R113) and of the status read (R143 to R145), said
once; and how a transfer and a poll run (R114, R140 to R142). -/

namespace Sys2Proof.Machine

/-- `RAWNIB` (R111). -/
theorem rawNib_effect {s : State} (rs : Bool) (n : Nibble) (hen : s.pins.en = false) (hrw : s.pins.rw = false)
    (hu : s.upset = none) :
    runPrims (rawNib s.cfg rs n) s =
      { s with
        pins := { rs := rs, en := false, rw := false, dout := n.setWidth 8, bl := s.pins.bl }
        byte := n.setWidth 8, dlyReq := false, dlyUs := s.cfg.tPulse
        trace := s.trace ++ [.rs rs, .d (n.setWidth 8), .en true, .dly s.cfg.tPulse, .en false]
        latched := s.latched ++ [(rs, n.setWidth 8)] } := by
  obtain ⟨cfg, ⟨prs, pen, prw, pd, pb⟩⟩ := s
  simp only at hen hrw hu
  subst hen hrw hu
  have : (lowNibble (n.setWidth 8)).setWidth 8 = n.setWidth 8 := by revert n; decide
  simp [rawNib, runPrims, doPrim, pulse, delay, setRS, setEN, drive, request, awaitDelay, emit, latchedAt, forcedLatch, this]

/-- `RAW8` (R112). -/
theorem raw8_effect {s : State} (rs : Bool) (b : Byte) (hen : s.pins.en = false) (hrw : s.pins.rw = false)
    (hu : s.upset = none) :
    runPrims (raw8 s.cfg rs b) s =
      { s with
        pins := { rs := rs, en := false, rw := false, dout := b, bl := s.pins.bl }
        byte := b, dlyReq := false, dlyUs := s.cfg.tPulse
        trace := s.trace ++ [.rs rs, .d b, .en true, .dly s.cfg.tPulse, .en false]
        latched := s.latched ++ [(rs, b)] } := by
  obtain ⟨cfg, ⟨prs, pen, prw, pd, pb⟩⟩ := s
  simp only at hen hrw hu
  subst hen hrw hu
  simp [raw8, runPrims, doPrim, pulse, delay, setRS, setEN, drive, request, awaitDelay, emit, latchedAt, forcedLatch]

/-- `RAW4` (R113). -/
theorem raw4_effect {s : State} (rs : Bool) (b : Byte) (hen : s.pins.en = false) (hrw : s.pins.rw = false)
    (hu : s.upset = none) :
    runPrims (raw4 s.cfg rs b) s =
      { s with
        pins := { rs := rs, en := false, rw := false, dout := (lowNibble b).setWidth 8, bl := s.pins.bl }
        byte := b, dlyReq := false, dlyUs := s.cfg.tPulse
        trace := s.trace ++ [.rs rs, .d ((highNibble b).setWidth 8), .en true, .dly s.cfg.tPulse, .en false,
          .d ((lowNibble b).setWidth 8), .en true, .dly s.cfg.tPulse, .en false]
        latched := s.latched ++ [(rs, (highNibble b).setWidth 8), (rs, (lowNibble b).setWidth 8)] } := by
  obtain ⟨cfg, ⟨prs, pen, prw, pd, pb⟩⟩ := s
  simp only at hen hrw hu
  subst hen hrw hu
  simp [raw4, runPrims, doPrim, pulse, delay, setRS, setEN, drive, request, awaitDelay, emit, latchedAt, forcedLatch]

/-- `READSTATUS` on 8 lines (R144). -/
theorem readStatus_eight_effect {s : State} (hw : s.cfg.busWidth = .eight) (hen : s.pins.en = false)
    (hrw : s.pins.rw = true) (hu : s.upset = none) :
    runPrims (readStatus s.cfg) s =
      { answerUsed s with
        sts := some (lineValue s), dlyReq := false, dlyUs := s.cfg.tPulse
        trace := s.trace ++ [.en true, .dly s.cfg.tPulse, .inp (lineValue s), .en false] } := by
  obtain ⟨cfg, ⟨prs, pen, prw, pd, pb⟩, seq, opr, byte, tier, rdh, sts, status, done, dlyReq, dlyUs, host, upset, din, samples,
    hostCycle, dinCycle, trace, latched⟩ := s
  simp only at hw hen hrw hu
  subst hen hrw hu
  cases h : pending din dinCycle <;>
    simp [readStatus, hw, readCyc, runPrims, doPrim, setEN, sampleByte, sample, request, awaitDelay, emit, delay,
      latchedAt, forcedLatch, lineValue, answerUsed, State.answers, h]

/-- `READSTATUS` on 4 lines (R145). -/
theorem readStatus_four_effect {s : State} (hw : s.cfg.busWidth = .four) (hen : s.pins.en = false)
    (hrw : s.pins.rw = true) (hu : s.upset = none) :
    runPrims (readStatus s.cfg) s =
      { answerUsed (answerUsed s) with
        rdh := lowNibble (lineValue s)
        sts := some (assembleStatus (lowNibble (lineValue s)) (lowNibble (lineValue (answerUsed s))))
        dlyReq := false, dlyUs := s.cfg.tPulse
        trace := s.trace ++ [.en true, .dly s.cfg.tPulse, .inp (lineValue s), .en false,
          .en true, .dly s.cfg.tPulse, .inp (lineValue (answerUsed s)), .en false] } := by
  obtain ⟨cfg, ⟨prs, pen, prw, pd, pb⟩, seq, opr, byte, tier, rdh, sts, status, done, dlyReq, dlyUs, host, upset, din, samples,
    hostCycle, dinCycle, trace, latched⟩ := s
  simp only at hw hen hrw hu
  subst hen hrw hu
  cases h : pending din dinCycle with
  | nil =>
    simp [readStatus, hw, readCyc, runPrims, doPrim, setEN, sampleHigh, sampleLow, sample, request, awaitDelay, emit,
      delay, latchedAt, forcedLatch, lineValue, answerUsed, State.answers, h]
  | cons v vs =>
    cases h' : pending vs dinCycle <;>
      simp [readStatus, hw, readCyc, runPrims, doPrim, setEN, sampleHigh, sampleLow, sample, request, awaitDelay, emit,
        delay, latchedAt, forcedLatch, lineValue, answerUsed, State.answers, h, h']

theorem rawByte_plain (c : Cfg) (rs : Bool) (b : Byte) : (rawByte c rs b).all Prim.plain = true := by
  cases h : c.busWidth <;> simp [rawByte, h, raw8, raw4, pulse, delay, Prim.plain]

theorem readStatus_plain (c : Cfg) : (readStatus c).all Prim.plain = true := by
  cases h : c.busWidth <;> simp [readStatus, h, readCyc, delay, Prim.plain]

/-- A transfer on a binding that cannot read (R114, R141): the write part and the tier's delay, then what follows. -/
theorem runScript_xfer_fixed {s : State} {c : Cfg} (hc : c.canRead = false) (x : Xfer) (rest : List Xfer) (qs : List Prim)
    (hu : s.upset = none) :
    runScript (xfer c x rest ++ qs) s =
      runScript qs (runPrims ([.loadTier x.tier] ++ rawByte c x.rs x.byte ++ [.requestTier, .await]) s) := by
  have h : xfer c x rest = [.loadTier x.tier] ++ rawByte c x.rs x.byte ++ [.requestTier, .await] := by simp [xfer, sync, hc]
  rw [h, runScript_plain_append _ _ hu]
  rw [List.all_append, List.all_append, rawByte_plain]
  rfl

/-- One pass through the loop of `BUSYPOLL` (R142): the status read, then busy ends the step in the loop, ready drops
the status byte (R29), restores write direction and goes on with what follows. -/
theorem runScript_pollLoop (c : Cfg) (rest : List Xfer) (qs : List Prim) {s : State} (hu : s.upset = none) :
    runScript (pollLoop c rest ++ qs) s =
      if stillBusy (runPrims (readStatus c) s) then .next { runPrims (readStatus c) s with seq := .polling rest }
      else runScript qs (setRW false (leavePoll (runPrims (readStatus c) s))) := by
  have h := runPrims_calm (readStatus c) hu
  simp only [pollLoop, List.append_assoc]
  rw [runScript_plain_append (readStatus_plain c) _ hu, List.cons_append, runScript_pollTest _ _ h, List.cons_append,
    runScript_plain_cons rfl _ (by simp [h]), List.nil_append]
  rfl

/-- A transfer on a binding that can read (R114, R142): the write part, then the poll. -/
theorem runScript_xfer_poll {s : State} {c : Cfg} (hc : c.canRead = true) (x : Xfer) (rest : List Xfer) (qs : List Prim)
    (hu : s.upset = none) :
    runScript (xfer c x rest ++ qs) s =
      runScript (pollLoop c rest ++ qs)
        (runPrims ([.loadTier x.tier] ++ rawByte c x.rs x.byte ++ [.setRS false, .setRW true]) s) := by
  have h : xfer c x rest ++ qs = ([.loadTier x.tier] ++ rawByte c x.rs x.byte ++ [.setRS false, .setRW true])
      ++ (pollLoop c rest ++ qs) := by simp [xfer, sync, hc, busyPoll]
  rw [h, runScript_plain_append _ _ hu]
  rw [List.all_append, List.all_append, rawByte_plain]
  rfl

end Sys2Proof.Machine
end

