-- ==== Sys2Proof/Tests/Slice0.lean ====
section
/-! SUPPORT. The model's own tests. Expected values come from the worked vectors of spec/95 (named in each comment) or from
the encoding tables of spec/30. The second half shows, for every statement with hypotheses, concrete data that meet them. -/

namespace Sys2Proof.Tests

open Sys2Proof.Machine Sys2Proof.Expect

/-- `8/0/1/2x16`. -/
def c8 : Cfg := Cfg.default

/-- `4/0/0/2x16`. -/
def c4 : Cfg := { Cfg.default with busWidth := .four, hasBacklight := false }

/-- `8/1/0/2x16`. -/
def c8r : Cfg := { Cfg.default with canRead := true, hasBacklight := false }

/-- `4/1/0/2x16`. -/
def c4r : Cfg := { Cfg.default with busWidth := .four, canRead := true, hasBacklight := false }

/-- The reset state with the device's answers and the host's words. -/
def start (c : Cfg) (din : List Byte) (host : List Word) : State :=
  { State.resetWith c with din := din, host := host }

/-- What a step shows: its events, the pins after it and the status; none if it does not complete an operation. -/
def shown (r : Result) : Option (List Event × Pins × Status) :=
  match r with
  | .next t => if t.done then some (t.trace, t.pins, t.status) else none
  | .fault _ => none
  | .refused _ => none

/-- What the device latched in a step. -/
def told (r : Result) : List (Bool × Byte) :=
  match r with
  | .next t => t.latched
  | .fault _ => []
  | .refused _ => []

/-- The first step after reset with one word to issue. -/
def one (c : Cfg) (din : List Byte) (w : Word) : Result := step (start c din [w])

/-! ## Well-formedness -/

theorem test_wf_default : Cfg.default.wf = true := by decide

theorem test_wf_no_columns : { Cfg.default with cols := 0 }.wf = false := by decide

theorem test_wf_one_row_81_columns : { Cfg.default with rows := 1, cols := 81 }.wf = false := by decide

theorem test_wf_one_row_80_columns : { Cfg.default with rows := 1, cols := 80 }.wf = true := by decide

theorem test_wf_two_rows_41_columns : { Cfg.default with cols := 41 }.wf = false := by decide

theorem test_wf_three_rows : { Cfg.default with rows := 3 }.wf = false := by decide

theorem test_wf_long_not_longer : { Cfg.default with tLong := 50 }.wf = false := by decide

theorem test_wf_no_pulse : { Cfg.default with tPulse := 0 }.wf = false := by decide

theorem test_wf_backlight_without_line : (Instr.backlight true).wf c4 = false := by decide

theorem test_wf_backlight_with_line : (Instr.backlight true).wf c8 = true := by decide

/-! ## Decoding: words written out from R80 to R82 -/

theorem test_decode_clear : decode 0b0001_0000_00000000 = .ok .clear := rfl

theorem test_decode_home : decode 0b0010_0000_00000000 = .ok .home := rfl

theorem test_decode_entry : decode 0b0011_0000_000000_1_0 = .ok (.entry true false) := rfl

theorem test_decode_display : decode 0b0100_0000_00000_1_0_1 = .ok (.display true false true) := rfl

theorem test_decode_shift : decode 0b0101_0000_0000_1_0_00 = .ok (.shift true false) := rfl

theorem test_decode_init : decode 0b0110_0000_0000_0_1_00 = .ok (.init false true) := rfl

theorem test_decode_setcg : decode 0b0111_0000_00_101001 = .ok (.setcg 0b101001) := rfl

theorem test_decode_setdd : decode 0b1000_0000_0_1000001 = .ok (.setdd 0b1000001) := rfl

theorem test_decode_pos : decode 0b1001_0001_00000011 = .ok (.pos 1 3) := rfl

theorem test_decode_write : decode 0b1010_0000_01000001 = .ok (.write 0x41) := rfl

theorem test_decode_backlight : decode 0b1011_0000_0000000_1 = .ok (.backlight true) := rfl

/-- V-ILL: a reserved operation code, a set `a`, a set reserved bit. -/
theorem test_decode_rejects :
    decode 0x0000 = .error .reservedOpcode ∧ decode 0xC000 = .error .reservedOpcode ∧
    decode 0xFFFF = .error .reservedOpcode ∧ decode 0x1100 = .error .operandA ∧ decode 0xA141 = .error .operandA ∧
    decode 0x1001 = .error .reservedBits ∧ decode 0x3004 = .error .reservedBits ∧
    decode 0x5001 = .error .reservedBits ∧ decode 0x7040 = .error .reservedBits ∧
    decode 0x8080 = .error .reservedBits ∧ decode 0xB002 = .error .reservedBits :=
  ⟨rfl, rfl, rfl, rfl, rfl, rfl, rfl, rfl, rfl, rfl, rfl⟩

/-- R97: the assembler syntax. -/
theorem test_asm : (Instr.display true false false).asm = "DISPLAY on, nocursor, noblink" ∧
    (Instr.pos 1 3).asm = "POS 1, 3" ∧ (Instr.init true false).asm = "INIT 2, 5x8" := by decide

/-- R98, P1: `WRITESTR "Hi"`. -/
theorem test_writestr : writeStr [0x48, 0x69] = [0xA048, 0xA069] := by decide

/-! ## The operations: V-OPS-8, V-OPS-4, V-POS, V-INIT, V-POLL -/

theorem test_clear_8 : shown (one c8 [] 0x1000) =
    some ([.rs false, .d 0x01, .en true, .dly 1, .en false, .dly 2000], ⟨false, false, false, 0x01, false⟩, .ok) := rfl

theorem test_home_4 : shown (one c4 [] 0x2000) =
    some ([.rs false, .d 0x0, .en true, .dly 1, .en false, .d 0x2, .en true, .dly 1, .en false, .dly 2000],
      ⟨false, false, false, 0x2, false⟩, .ok) := rfl

theorem test_entry_8 : shown (one c8 [] 0x3001) =
    some ([.rs false, .d 0x05, .en true, .dly 1, .en false, .dly 50], ⟨false, false, false, 0x05, false⟩, .ok) := rfl

theorem test_display_4 : shown (one c4 [] 0x4004) =
    some ([.rs false, .d 0x0, .en true, .dly 1, .en false, .d 0xC, .en true, .dly 1, .en false, .dly 50],
      ⟨false, false, false, 0xC, false⟩, .ok) := rfl

theorem test_shift_8 : shown (one c8 [] 0x5008) =
    some ([.rs false, .d 0x18, .en true, .dly 1, .en false, .dly 50], ⟨false, false, false, 0x18, false⟩, .ok) := rfl

theorem test_setcg_4 : shown (one c4 [] 0x703F) =
    some ([.rs false, .d 0x7, .en true, .dly 1, .en false, .d 0xF, .en true, .dly 1, .en false, .dly 50],
      ⟨false, false, false, 0xF, false⟩, .ok) := rfl

theorem test_setdd_8 : shown (one c8 [] 0x807F) =
    some ([.rs false, .d 0xFF, .en true, .dly 1, .en false, .dly 50], ⟨false, false, false, 0xFF, false⟩, .ok) := rfl

theorem test_pos_4 : shown (one c4 [] 0x9103) =
    some ([.rs false, .d 0xC, .en true, .dly 1, .en false, .d 0x3, .en true, .dly 1, .en false, .dly 50],
      ⟨false, false, false, 0x3, false⟩, .ok) := rfl

theorem test_pos_column_out_of_range : shown (one c8 [] 0x9010) = some ([], Pins.reset, .invalidArgument) := rfl

theorem test_write_8 : shown (one c8 [] 0xA041) =
    some ([.rs true, .d 0x41, .en true, .dly 1, .en false, .dly 50], ⟨true, false, false, 0x41, false⟩, .ok) := rfl

/-- V-OPS-4: equal nibbles are driven twice. -/
theorem test_write_4 : shown (one c4 [] 0xA033) =
    some ([.rs true, .d 0x3, .en true, .dly 1, .en false, .d 0x3, .en true, .dly 1, .en false, .dly 50],
      ⟨true, false, false, 0x3, false⟩, .ok) := rfl

theorem test_backlight : shown (one c8 [] 0xB001) = some ([.bl true], ⟨false, false, false, 0, true⟩, .ok) := rfl

theorem test_backlight_without_line : shown (one c4 [] 0xB001) = some ([], Pins.reset, .illegalOperation) := rfl

theorem test_illegal_word : shown (one c8 [] 0x0000) = some ([], Pins.reset, .illegalOperation) := rfl

/-- V-INIT-8. -/
theorem test_init_8 : shown (one c8 [] 0x6008) =
    some ([.rs false, .d 0x38, .en true, .dly 1, .en false, .dly 4500, .rs false, .d 0x38, .en true, .dly 1, .en false,
      .dly 150, .rs false, .d 0x38, .en true, .dly 1, .en false, .dly 150, .rs false, .d 0x08, .en true, .dly 1,
      .en false, .dly 50, .rs false, .d 0x01, .en true, .dly 1, .en false, .dly 2000, .rs false, .d 0x06, .en true,
      .dly 1, .en false, .dly 50], ⟨false, false, false, 0x06, false⟩, .ok) := rfl

/-- V-INIT-4, its latch log. -/
theorem test_init_4 : told (one c4 [] 0x6008) =
    [(false, 0x2), (false, 0x2), (false, 0x2), (false, 0x2), (false, 0x8), (false, 0x0), (false, 0x8), (false, 0x0),
      (false, 0x1), (false, 0x0), (false, 0x6)] := rfl

/-- V-POLL: ready at the first status read. -/
theorem test_poll_8 : shown (one c8r [0x00] 0xA041) =
    some ([.rs true, .d 0x41, .en true, .dly 1, .en false, .rs false, .rw true, .en true, .dly 1, .inp 0x00, .en false,
      .rw false], ⟨false, false, false, 0x41, false⟩, .ok) := rfl

/-- V-POLL: on 4 lines the first sample holds the busy flag, and the second is taken all the same. -/
theorem test_poll_4 : shown (one c4r [0x7, 0xF] 0x1000) =
    some ([.rs false, .d 0x0, .en true, .dly 1, .en false, .d 0x1, .en true, .dly 1, .en false, .rs false, .rw true,
      .en true, .dly 1, .inp 0x7, .en false, .en true, .dly 1, .inp 0xF, .en false, .rw false],
      ⟨false, false, false, 0x1, false⟩, .ok) := rfl

/-- The state of a result. -/
def stateOf (r : Result) : State :=
  match r with
  | .next t => t
  | .fault _ => State.reset
  | .refused _ => State.reset

/-- V-HANG: the device is busy; the pins after the status read. -/
theorem test_poll_busy : (stateOf (one c8r [0x80] 0x2000)).seq = .polling [] ∧
    (stateOf (one c8r [0x80] 0x2000)).pins = ⟨false, false, true, 0x02, false⟩ ∧
    (stateOf (one c8r [0x80] 0x2000)).opReady = false := ⟨rfl, rfl, rfl⟩

/-- R29: a status byte is stored in the poll loop only: after a busy read there, none after a ready one. -/
theorem test_flag_only_in_loop : (stateOf (one c8r [0x80] 0x2000)).sts = some 0x80 ∧
    (stateOf (one c8r [0x00] 0x2000)).sts = none ∧
    (stateOf (step (stateOf (one c8r [0x80, 0x7F] 0x2000)))).sts = none ∧
    (stateOf (step (stateOf (one c4r [0x8, 0xF, 0x7, 0xF] 0x2000)))).rdh = 0 := ⟨rfl, rfl, rfl, rfl⟩

/-- R201, R62: `rst` with EN high presents the device with one more transfer. -/
theorem test_rst_while_enable_is_high :
    (stateOf (step { start c8 [] [0xA041] with upset := some (3, .rst) })).trace = [.rs true, .d 0x41, .en true] ∧
    (stateOf (step { start c8 [] [0xA041] with upset := some (3, .rst) })).pins = Pins.reset ∧
    (stateOf (step { start c8 [] [0xA041] with upset := some (3, .rst) })).latched = [(true, 0x41)] := ⟨rfl, rfl, rfl⟩

/-! ## Witnesses: data that meet the hypotheses of the statements -/

theorem start_ready (c : Cfg) (din : List Byte) (host : List Word) : (start c din host).Ready := ⟨rfl, rfl, rfl, rfl⟩

theorem start_inv {c : Cfg} (h : c.wf = true) (din : List Byte) (host : List Word) : (start c din host).Inv :=
  ⟨h, rfl, fun _ => rfl, fun _ h => (by simp [start, State.resetWith] at h),
    fun _ => (by decide : (0 : Byte).toNat < 16), fun _ => rfl, rfl⟩

theorem start_flag (c : Cfg) (din : List Byte) (host : List Word) : (start c din host).FlagOnlyInLoop :=
  ⟨fun _ => rfl, fun _ h => by simp [start, State.resetWith] at h⟩

/-- A state in the poll after a busy read, with the transfers still to make. -/
def inPoll (c : Cfg) (din : List Byte) (rest : List Xfer) : State :=
  { start c din [] with seq := .polling rest, pins := ⟨false, false, true, 0x8, false⟩, sts := some 0x80 }

theorem inPoll_flag (c : Cfg) (din : List Byte) (rest : List Xfer) : (inPoll c din rest).FlagOnlyInLoop :=
  ⟨fun h => by simp [inPoll] at h, fun _ _ => rfl⟩

theorem inPoll_ok {c : Cfg} (h : c.canRead = true) (din : List Byte) (rest : List Xfer) : (inPoll c din rest).InPoll rest :=
  ⟨rfl, rfl, rfl, rfl, h, rfl⟩

theorem inPoll_inv {c : Cfg} (hw : c.wf = true) (h : c.canRead = true) (din : List Byte) : (inPoll c din []).Inv :=
  ⟨hw, rfl, fun h => (by simp [inPoll] at h),
    fun rest hr => ⟨rfl, rfl, h, by simp only [inPoll, Seq.polling.injEq] at hr; rw [← hr]; exact List.nil_suffix⟩,
    fun _ => (by decide : (0x8 : Byte).toNat < 16), fun _ => rfl, rfl⟩

theorem witness_DecodedWordIsTheEncodingOfItsOperation : ∃ w i, decode w = .ok i := ⟨0x9103, .pos 1 3, rfl⟩

theorem witness_LegalWordsAreExactlyTheDecodedOnes :
    Legal c8 0x9FFF ∧ Legal c8 0xB001 ∧ ¬ Legal c4 0xB001 ∧ ¬ Legal c8 0x0000 ∧ ¬ Legal c8 0xC000 := by
  unfold Legal
  decide

theorem witness_CommandByteIsSelectingBitWithOperand :
    (start c8 [] []).upset = none ∧ c8.canRead = false ∧ opcOf (encode .clear) ∈ [1, 2, 3, 4, 5, 7, 8] ∧
      opcOf (encode (.setdd 127)) ∈ [1, 2, 3, 4, 5, 7, 8] := by decide

theorem witness_StepRunsTheDecodedOperation :
    (start c8 [] [0x1000]).seq = .idle ∧ (start c8 [] [0x1000]).words = 0x1000 :: [] ∧
      (start c8 [] [0x1000]).upset ≠ some (0, .rst) ∧ decode 0x1000 = .ok .clear ∧
      { start c8 [] [] with hostCycle := [0x1000, 0x2000] }.words = 0x1000 :: [0x2000] :=
  ⟨rfl, rfl, by decide, rfl, rfl⟩

theorem witness_StepRunsThePlacedWord : decode 0xB000 = .ok (.backlight false) := rfl

theorem witness_IllegalWordCompletesWithNoEffect :
    (start c4 [] []).seq = .idle ∧ (start c4 [] []).upset = none ∧ ¬ Legal c4 0xB000 ∧ ¬ Legal c4 0x7040 := by
  unfold Legal
  decide

/-- Both sides of the equivalence. -/
theorem witness_IllegalOperationIsExactlyAFailedDecodeCheck :
    (∃ t, (start c8 [] [0x1001]).Ready ∧ step (start c8 [] [0x1001]) = .next t ∧ t.done = true ∧
      t.status = .illegalOperation) ∧
    (∃ t, (start c8 [] [0x9200]).Ready ∧ step (start c8 [] [0x9200]) = .next t ∧ t.done = true ∧
      t.status ≠ .illegalOperation) :=
  ⟨⟨_, start_ready _ _ _, rfl, rfl, rfl⟩, ⟨_, start_ready _ _ _, rfl, rfl, by decide⟩⟩

theorem witness_IdleWithoutWordStaysIdle : (start c8 [] []).Ready ∧ (start c8 [] []).words = [] :=
  ⟨start_ready _ _ _, rfl⟩

/-- Both outcomes. -/
theorem witness_StepStopsOnlyOnASecondOpValid :
    (∃ t, step (start c8 [] []) = .next t) ∧
      step { start c8 [] [0x1000] with upset := some (0, .opValid) } = .fault .opWhileBusy := ⟨⟨_, rfl⟩, rfl⟩

/-- The three cases of `OneTransfer`, on both bus widths. -/
theorem witness_OneTransfer :
    ((start c8 [] []).Ready ∧ c8.canRead = false) ∧ ((start c4 [] []).Ready ∧ c4.canRead = false) ∧
    ((start c8r [0x7F] []).Ready ∧ c8r.canRead = true ∧ ¬ busyNext (start c8r [0x7F] [])) ∧
    ((start c4r [0x7, 0xF] []).Ready ∧ c4r.canRead = true ∧ ¬ busyNext (start c4r [0x7, 0xF] [])) ∧
    ((start c8r [0x80] []).Ready ∧ c8r.canRead = true ∧ busyNext (start c8r [0x80] [])) ∧
    ((start c4r [0x8, 0x0] []).Ready ∧ c4r.canRead = true ∧ busyNext (start c4r [0x8, 0x0] [])) :=
  ⟨⟨start_ready _ _ _, rfl⟩, ⟨start_ready _ _ _, rfl⟩, ⟨start_ready _ _ _, rfl, by decide⟩,
    ⟨start_ready _ _ _, rfl, by decide⟩, ⟨start_ready _ _ _, rfl, by decide⟩, ⟨start_ready _ _ _, rfl, by decide⟩⟩

/-- The rejected words of each operation code, at the boundary of the legal ones. -/
theorem witness_ClearAndHomeSendOneCommandWithTheLongTier :
    (opcOf 0x1001 = 1 ∧ bOf 0x1001 ≠ 0) ∧ (opcOf 0x2100 = 2 ∧ aOf 0x2100 ≠ 0) := by decide

theorem witness_EntrySendsTheEntryModeByte :
    (opcOf 0x3004 = 3 ∧ bOf 0x3004 / 4 ≠ 0) ∧ (opcOf 0x3103 = 3 ∧ aOf 0x3103 ≠ 0) := by decide

theorem witness_DisplaySendsTheDisplayControlByte :
    (opcOf 0x4008 = 4 ∧ bOf 0x4008 / 8 ≠ 0) ∧ (opcOf 0x4107 = 4 ∧ aOf 0x4107 ≠ 0) := by decide

theorem witness_ShiftSendsTheShiftByte :
    (opcOf 0x5001 = 5 ∧ bOf 0x5001 &&& 0xF3 ≠ 0) ∧ (opcOf 0x510C = 5 ∧ aOf 0x510C ≠ 0) := by decide

theorem witness_AddressOperationsSendTheirAddressUnchecked :
    (opcOf 0x7040 = 7 ∧ bOf 0x7040 / 64 ≠ 0) ∧ (opcOf 0x713F = 7 ∧ aOf 0x713F ≠ 0) ∧
      (opcOf 0x8080 = 8 ∧ bOf 0x8080 / 128 ≠ 0) ∧ (opcOf 0x817F = 8 ∧ aOf 0x817F ≠ 0) := by decide

/-- In range at the last row and column; out of range one further. -/
theorem witness_PosSendsTheDdramAddressOrFails :
    (start c8 [] []).Ready ∧ c8.wf = true ∧ opcOf 0x9FFF = 9 ∧
      ((1 : Nibble).toNat < c8.rows ∧ (15 : Byte).toNat < c8.cols) ∧ c8.rows ≤ (2 : Nibble).toNat ∧
      c8.cols ≤ (16 : Byte).toNat := ⟨start_ready _ _ _, by decide⟩

theorem witness_PosAddressNeverWraps :
    ({ Cfg.default with rows := 1, cols := 80 }.wf = true ∧ (0 : Nibble).toNat < 1 ∧ (79 : Byte).toNat < 80) ∧
      ({ Cfg.default with cols := 40 }.wf = true ∧ (1 : Nibble).toNat < 2 ∧ (39 : Byte).toNat < 40) := by decide

theorem witness_WriteSendsItsByteAsData : opcOf 0xA100 = 10 ∧ aOf 0xA100 ≠ 0 := by decide

theorem witness_BacklightWritesItsLineAndNothingElse :
    ((start c8 [] []).Ready ∧ c8.hasBacklight = true) ∧ ((start c4 [] []).Ready ∧ c4.hasBacklight = false) ∧
      (opcOf 0xB000 = 11 ∧ opcOf 0xB100 = 11 ∧ aOf 0xB100 ≠ 0 ∧ opcOf 0xB002 = 11 ∧ bOf 0xB002 / 2 ≠ 0) :=
  ⟨⟨start_ready _ _ _, rfl⟩, ⟨start_ready _ _ _, rfl⟩, by decide⟩

theorem witness_InitOnEightLinesWithFixedDelays :
    (start c8 [] []).Ready ∧ c8.busWidth = .eight ∧ c8.canRead = false := ⟨start_ready _ _ _, rfl, rfl⟩

theorem witness_InitOnFourLinesWithFixedDelays :
    (start c4 [] []).Ready ∧ c4.busWidth = .four ∧ c4.canRead = false := ⟨start_ready _ _ _, rfl, rfl⟩

/-- V-INIT-POLL on 8 lines: three ready status reads. -/
theorem witness_InitWithPollingCompletesWhenTheDeviceIsReady :
    let s := start c8r [0, 0, 0] []
    let p := afterPreamble s (Expect.functionSet s.cfg true false)
    let q1 := sentReady p false 0x08 .short
    let q2 := sentReady q1 false 0x01 .long
    s.Ready ∧ s.cfg.canRead = true ∧ s.cfg.busWidth ≠ .four ∧ ¬ busyNext p ∧ ¬ busyNext q1 ∧ ¬ busyNext q2 :=
  ⟨start_ready _ _ _, rfl, by decide, by decide, by decide, by decide⟩

/-- V-INIT-POLL on 4 lines: four ready status reads. -/
theorem witness_InitWithPollingOnFourLines :
    let s := start c4r [0, 0, 0, 0, 0, 0, 0, 0] []
    let p := afterPreamble s (Expect.functionSet s.cfg true false)
    let q := sentReady p false (Expect.functionSet s.cfg true false) .short
    let q1 := sentReady q false 0x08 .short
    let q2 := sentReady q1 false 0x01 .long
    s.Ready ∧ s.cfg.canRead = true ∧ s.cfg.busWidth = .four ∧ ¬ busyNext p ∧ ¬ busyNext q ∧ ¬ busyNext q1 ∧
      ¬ busyNext q2 :=
  ⟨start_ready _ _ _, rfl, rfl, by decide, by decide, by decide, by decide⟩

/-- On both bus widths. -/
theorem witness_InitWithPollingWaitsWhileTheDeviceIsBusy :
    ((start c8r [0x80] []).Ready ∧ c8r.canRead = true ∧
      busyNext (afterPreamble (start c8r [0x80] []) (Expect.functionSet c8r false false))) ∧
    ((start c4r [0x8, 0] []).Ready ∧ c4r.canRead = true ∧
      busyNext (afterPreamble (start c4r [0x8, 0] []) (Expect.functionSet c4r true true))) :=
  ⟨⟨start_ready _ _ _, rfl, by decide⟩, ⟨start_ready _ _ _, rfl, by decide⟩⟩

theorem witness_BusyStatusReadStaysInThePoll :
    ((inPoll c8r [0xFF] []).InPoll [] ∧ busyNext (inPoll c8r [0xFF] [])) ∧
      ((inPoll c4r [0xF, 0xF] bringUp).InPoll bringUp ∧ busyNext (inPoll c4r [0xF, 0xF] bringUp)) :=
  ⟨⟨inPoll_ok rfl _ _, by decide⟩, ⟨inPoll_ok rfl _ _, by decide⟩⟩

theorem witness_ReadyStatusReadCompletesTheLastTransfer :
    ((inPoll c8r [0x7F] []).InPoll [] ∧ ¬ busyNext (inPoll c8r [0x7F] [])) ∧
      ((inPoll c4r [0x7, 0xF] []).InPoll [] ∧ ¬ busyNext (inPoll c4r [0x7, 0xF] [])) :=
  ⟨⟨inPoll_ok rfl _ _, by decide⟩, ⟨inPoll_ok rfl _ _, by decide⟩⟩

/-- On both bus widths; the next transfer busy at its first read, and ready there. -/
theorem witness_ReadyStatusReadGoesOnToTheNextTransfer :
    ((inPoll c8r [0x00, 0x80] bringUp).InPoll bringUp ∧ ¬ busyNext (inPoll c8r [0x00, 0x80] bringUp)) ∧
    ((inPoll c8r [0x00, 0x00, 0x00, 0x00] bringUp).InPoll bringUp ∧
      ¬ busyNext (inPoll c8r [0x00, 0x00, 0x00, 0x00] bringUp)) ∧
    ((inPoll c4r [0x7, 0x0, 0x8, 0x0] bringUp).InPoll bringUp ∧ ¬ busyNext (inPoll c4r [0x7, 0x0, 0x8, 0x0] bringUp)) :=
  ⟨⟨inPoll_ok rfl _ _, by decide⟩, ⟨inPoll_ok rfl _ _, by decide⟩, ⟨inPoll_ok rfl _ _, by decide⟩⟩

/-- R142, R134: the read is ready, and so are those of the three transfers that follow: INIT's bring-up is done. -/
theorem test_poll_goes_on_to_the_end : shown (step (inPoll c8r [0, 0, 0, 0] bringUp)) ≠ none ∧
    told (step (inPoll c8r [0, 0, 0, 0] bringUp)) = [(false, 0x08), (false, 0x01), (false, 0x06)] ∧
    (stateOf (step (inPoll c8r [0, 0x80] bringUp))).seq =
      .polling [⟨false, 0x01, .long⟩, ⟨false, 0x06, .short⟩] := ⟨by decide, rfl, rfl⟩

/-- On each bus width one state, with status bytes 0x80 and 0xF5; on 4 lines the second sample need not have its top bit
set. -/
theorem witness_AStuckDeviceHangsThePoll :
    ((inPoll c4r [0x8, 0x0, 0xF, 0x5] []).InPoll [] ∧ (∀ v ∈ ([0x80, 0xF5] : List Byte), v.getLsbD 7 = true) ∧
      (inPoll c4r [0x8, 0x0, 0xF, 0x5] []).din = ([0x80, 0xF5] : List Byte).flatMap (answers c4r) ++ []) ∧
    ((inPoll c8r [0x80, 0xF5, 0x00] []).InPoll [] ∧
      (inPoll c8r [0x80, 0xF5, 0x00] []).din = ([0x80, 0xF5] : List Byte).flatMap (answers c8r) ++ [0x00]) :=
  ⟨⟨inPoll_ok rfl _ _, by decide, by decide⟩, ⟨inPoll_ok rfl _ _, by decide⟩⟩

/-- V-POLL: WRITE 'A' with two busy status reads, on both bus widths. -/
theorem witness_TransferCompletesAtTheFirstReadyStatusRead :
    let s := start c8r [0x80, 0x8F, 0x05] [0xA041]
    let u := start c4r [0x8, 0x0, 0x0, 0x1] [0xA041]
    s.Ready ∧ u.Ready ∧ c8r.canRead = true ∧ c8r.wf = true ∧ c4r.wf = true ∧ decode 0xA041 = .ok (.write 0x41) ∧
      transferOf c8r (.write 0x41) = some (true, 0x41, .short) ∧
      (∀ v ∈ ([0x80, 0x8F] : List Byte), v.getLsbD 7 = true) ∧ (0x05 : Byte).getLsbD 7 = false ∧
      s.din = ([0x80, 0x8F] ++ [0x05]).flatMap (answers c8r) ++ [] ∧
      u.din = ([0x80] ++ [0x01]).flatMap (answers c4r) ++ [] :=
  ⟨start_ready _ _ _, start_ready _ _ _, rfl, by decide, by decide, rfl, rfl, by decide, by decide, by decide, by decide⟩

/-- For `ResetMeetsTheInvariant`, `EveryStepKeepsTheInvariant`, `PinsAreStableWhileEnableIsHigh`: idle, accepting, and in
the poll. -/
theorem witness_EveryStepKeepsTheInvariant :
    (∃ t, (start c8 [] []).Inv ∧ (start c8 [] []).FlagOnlyInLoop ∧ step (start c8 [] []) = .next t) ∧
    (∃ t, (start c8r [0x80] [0x1000]).Inv ∧ (start c8r [0x80] [0x1000]).FlagOnlyInLoop ∧
      step (start c8r [0x80] [0x1000]) = .next t) ∧
    (∃ t, (inPoll c4r [0x0, 0x0] []).Inv ∧ (inPoll c4r [0x0, 0x0] []).FlagOnlyInLoop ∧
      step (inPoll c4r [0x0, 0x0] []) = .next t) :=
  ⟨⟨_, start_inv (by decide) _ _, start_flag _ _ _, rfl⟩, ⟨_, start_inv (by decide) _ _, start_flag _ _ _, rfl⟩,
    ⟨_, inPoll_inv (by decide) rfl _, inPoll_flag _ _ _, rfl⟩⟩

theorem witness_NoStepChangesTheConfiguration : ∃ t, step (start c4 [] [0x6008]) = .next t := ⟨_, rfl⟩

theorem witness_RstPutsEverythingAtItsResetValue :
    { inPoll c8r [] [] with upset := some (0, .rst) }.upset = some (0, .rst) := rfl

/-- At acceptance and in the poll; before the first event, after the last, and later. -/
theorem witness_RstCutsAnOperationBetweenTwoEvents :
    (∃ u, (start c8 [] []).upset = none ∧ exec (.write 0x41) (start c8 [] []) = .next u ∧
      0 ≤ (newEvents (start c8 [] []) u).length ∧ 6 ≤ (newEvents (start c8 [] []) u).length ∧
      (newEvents (start c8 [] []) u).length < 7) ∧
    (∃ u, (inPoll c8r [0x80] []).seq = .polling [] ∧ step (inPoll c8r [0x80] []) = .next u ∧
      4 ≤ (newEvents (inPoll c8r [0x80] []) u).length ∧ (newEvents (inPoll c8r [0x80] []) u).length < 5) :=
  ⟨⟨_, rfl, rfl, by decide, by decide, by decide⟩, ⟨_, rfl, rfl, by decide, by decide⟩⟩

/-- The data of the statement before serve `SecondOpValidWhileBusyIsAFault` too; this is its stop. -/
theorem witness_SecondOpValidWhileBusyIsAFault :
    exec (.write 0x41) { start c8 [] [] with upset := some (6, .opValid) } = .fault .opWhileBusy := rfl

theorem witness_PinsAndLatchesFollowTheTrace :
    (start c4 [] [0x1000]).upset = none ∧ ∃ t, step (start c4 [] [0x1000]) = .next t := ⟨rfl, _, rfl⟩

theorem witness_WithoutReadCapabilityNothingIsRead :
    ∃ t, (start c4 [0x1] [0x1000]).Inv ∧ c4.canRead = false ∧ step (start c4 [0x1] [0x1000]) = .next t :=
  ⟨_, start_inv (by decide) _ _, rfl, rfl⟩

/-- A state in the poll accepts no INIT. -/
theorem inPoll_accepts_nothing (c : Cfg) (din : List Byte) (rest : List Xfer) : ¬ AcceptsInit (inPoll c din rest) := by
  rintro ⟨w, ws, n, f, h, -⟩
  cases h

/-- An operation, a step of a poll, and INIT, whose preamble asks for the delay 4500. -/
theorem witness_APollingBindingAsksForNoTierDelay :
    (∃ t, c8r.canRead = true ∧ exec .clear (start c8r [0x00] []) = .next t ∧
      Event.dly 1 ∈ newEvents (start c8r [0x00] []) t) ∧
    (∃ t, step (inPoll c8r [0x80] []) = .next t ∧ ¬ AcceptsInit (inPoll c8r [0x80] []) ∧
      Event.dly 1 ∈ newEvents (inPoll c8r [0x80] []) t) ∧
    (∃ t, (start c8r [0, 0, 0] []).upset = none ∧ exec (.init true false) (start c8r [0, 0, 0] []) = .next t ∧
      Event.dly 4500 ∈ newEvents (start c8r [0, 0, 0] []) t ∧
      Event.dly 1 ∈ (newEvents (start c8r [0, 0, 0] []) t).drop 18) :=
  ⟨⟨_, rfl, rfl, by decide⟩, ⟨_, rfl, inPoll_accepts_nothing _ _ _, by decide⟩, ⟨_, rfl, rfl, by decide, by decide⟩⟩

theorem witness_DelaysAreTheTimingParameters :
    ∃ t, step (start c8 [] [0x1000]) = .next t ∧ Event.dly 2000 ∈ newEvents (start c8 [] [0x1000]) t := ⟨_, rfl, by decide⟩

/-- On 8 lines, on 4 lines, and INIT on 4 lines, whose lone nibbles come first. -/
theorem witness_OnlyListedCommandBytesAreSent :
    (∃ t, (start c8 [] [0x9100]).Inv ∧ (start c8 [] [0x9100]).upset = none ∧
      step (start c8 [] [0x9100]) = .next t ∧ t.latched = [(false, 0xC0)] ∧ Emittable .eight 0xC0) ∧
    (∃ t, (start c4 [] [0x9100]).Inv ∧ (start c4 [] [0x9100]).upset = none ∧
      step (start c4 [] [0x9100]) = .next t ∧ t.latched = latches c4 false 0xC0) ∧
    (∃ t, (start c4 [] [0x600C]).Inv ∧ step (start c4 [] [0x600C]) = .next t ∧ AcceptsInit (start c4 [] [0x600C]) ∧
      t.latched.take 5 = [(false, 0x2), (false, 0x2), (false, 0x2)] ++ latches c4 false 0x2C ∧
      Emittable .four 0x2C ∧ ¬ Emittable .eight 0x2C) :=
  ⟨⟨_, start_inv (by decide) _ _, rfl, rfl, rfl, by unfold Emittable; decide⟩,
    ⟨_, start_inv (by decide) _ _, rfl, rfl, by decide⟩,
    ⟨_, start_inv (by decide) _ _, rfl, ⟨_, _, _, _, rfl, rfl, rfl⟩, by decide, by unfold Emittable; decide,
      by unfold Emittable; decide⟩⟩

/-- P3: an operation out of range, and a reserved word. -/
theorem witness_AnErrorCompletionChangesNothingElse :
    (∃ t, step (start c8 [] [0x9200]) = .next t ∧ t.done = true ∧ t.status ≠ .ok) ∧
      (∃ t, step (start c8 [] [0x0000]) = .next t ∧ t.done = true ∧ t.status ≠ .ok) :=
  ⟨⟨_, rfl, rfl, by decide⟩, ⟨_, rfl, rfl, by decide⟩⟩

/-- Both statuses, and `OK`. -/
theorem witness_WhichOperationsCompleteWithAnError :
    (∃ t, c8.wf = true ∧ exec (.pos 2 0) (start c8 [] []) = .next t ∧ t.done = true ∧ t.status = .invalidArgument) ∧
    (∃ t, c4.wf = true ∧ exec (.backlight true) (start c4 [] []) = .next t ∧ t.done = true ∧
      t.status = .illegalOperation) ∧
    (∃ t, c8.wf = true ∧ exec (.setdd 127) (start c8 [] []) = .next t ∧ t.done = true ∧ t.status = .ok) :=
  ⟨⟨_, by decide, rfl, rfl, rfl⟩, ⟨_, by decide, rfl, rfl, rfl⟩, ⟨_, by decide, rfl, rfl, rfl⟩⟩

/-- For `OnlyBacklightWritesTheBacklightLine` and `FrameOfEveryOperation`. -/
theorem witness_FrameOfEveryOperation :
    ∃ t, (start c8 [] []).upset = none ∧ exec (.display false false false) (start c8 [] []) = .next t := ⟨_, rfl, rfl⟩

/-- Two states that differ in what an earlier operation left. -/
theorem witness_NoOperationDependsOnEarlierOnes :
    let s := start c8 [] []
    let s' := { start c8 [] [] with pins := ⟨true, false, false, 0x41, true⟩, byte := 0x41, status := .invalidArgument }
    s.Ready ∧ s'.Ready ∧ s.cfg = s'.cfg ∧ s.din = s'.din ∧ s.dinCycle = s'.dinCycle ∧ s.samples = s'.samples ∧
      s.done = false ∧ s'.done = false ∧ ∃ t, exec .home s = .next t :=
  ⟨start_ready _ _ _, ⟨rfl, rfl, rfl, rfl⟩, rfl, rfl, rfl, rfl, rfl, rfl, _, rfl⟩

/-- V-INIT-8 and V-INIT-4: the counts of spec/41 with the default timing. -/
theorem witness_DurationOfEveryOperationWithFixedDelays :
    (∃ t, (start c8 [] []).Ready ∧ c8.canRead = false ∧ c8.wf = true ∧ exec (.init true false) (start c8 [] []) = .next t) ∧
      duration c8 (.init true false) = 6906 ∧ duration c4 (.init true false) = 6961 :=
  ⟨⟨_, start_ready _ _ _, rfl, by decide, rfl⟩, by decide, by decide⟩

theorem witness_NibblesComeInPairsOutsideInit :
    ∃ t, c4.busWidth = .four ∧ (start c4 [] [0xA048]).upset = none ∧ step (start c4 [] [0xA048]) = .next t ∧
      ¬ AcceptsInit (start c4 [] [0xA048]) := by
  refine ⟨_, rfl, rfl, rfl, ?_⟩
  rintro ⟨w, ws, n, f, -, h, hd⟩
  simp only [start, State.words, pending, List.cons.injEq] at h
  rw [← h.1] at hd
  cases hd

/-- The long tier, the short one, and the byte 0x01 as data. -/
theorem witness_TheTierIsAFunctionOfTheCommandByte :
    (∃ t, exec .clear (start c8 [] []) = .next t ∧ t.status = .ok ∧ t.done = true ∧ t.pins.rs = false) ∧
      (∃ t, exec (.write 0x01) (start c8 [] []) = .next t ∧ t.status = .ok ∧ t.done = true ∧ t.pins.rs = true) :=
  ⟨⟨_, rfl, rfl, rfl, rfl⟩, ⟨_, rfl, rfl, rfl, rfl⟩⟩

theorem witness_WriteStringIsOneDataTransferPerCharacter :
    (start c4 [] [0xA048, 0xA069]).Ready ∧ c4.canRead = false ∧
      (start c4 [] [0xA048, 0xA069]).host = writeStr [0x48, 0x69] ++ [] := ⟨start_ready _ _ _, rfl, by decide⟩

theorem witness_AWellEndedRunLeavesTheBusIdle :
    ∃ t, (start c8 [] [0xA041]).Inv ∧ step (start c8 [] [0xA041]) = .next t ∧ t.endedWell = true :=
  ⟨_, start_inv (by decide) _ _, rfl, rfl⟩

/-- V-INIT-POLL with busy reads: on 8 lines two before the first ready one and one before the last; on 4 lines one before
the second. -/
theorem witness_InitCompletesAfterAnyBusyReads :
    let s := start c8r [0x80, 0xFF, 0x00, 0x7F, 0x80, 0x00] [0x6008]
    let u := start c4r [0x0, 0x0, 0x8, 0x0, 0x0, 0x0, 0x0, 0x0, 0x0, 0x0] [0x6008]
    let ps : List (List Byte × Byte) := [([0x80, 0xFF], 0x00), ([], 0x7F), ([0x80], 0x00)]
    let qs : List (List Byte × Byte) := [([], 0x00), ([0x80], 0x00), ([], 0x00), ([], 0x00)]
    s.Ready ∧ u.Ready ∧ c8r.canRead = true ∧ c4r.canRead = true ∧ decode 0x6008 = .ok (.init true false) ∧
      (∀ p ∈ ps, (∀ v ∈ p.1, v.getLsbD 7 = true) ∧ p.2.getLsbD 7 = false) ∧
      (∀ p ∈ qs, (∀ v ∈ p.1, v.getLsbD 7 = true) ∧ p.2.getLsbD 7 = false) ∧
      s.din = pollAnswers c8r ps ++ [] ∧ u.din = pollAnswers c4r qs ++ [] :=
  ⟨start_ready _ _ _, start_ready _ _ _, rfl, rfl, rfl, by decide, by decide, by decide, by decide⟩

/-- A device that answers 0x80 without end, on 4 lines. -/
theorem witness_AnUnendingBusyAnswerNeverEndsThePoll :
    let s := { inPoll c4r [0xF, 0xF] [] with dinCycle := [0x8, 0x0] }
    s.InPoll [] ∧ (∀ v ∈ ([0xFF] ++ [0x80] : List Byte), v.getLsbD 7 = true) ∧
      s.din = ([0xFF] : List Byte).flatMap (answers c4r) ∧ s.dinCycle = ([0x80] : List Byte).flatMap (answers c4r) :=
  ⟨⟨rfl, rfl, rfl, rfl, rfl, rfl⟩, by decide, by decide, by decide⟩

/-- The device's cycle begins again where its listed answers end (R146), and so do the host's words (R218). -/
theorem test_cycles :
    (stateOf (step { inPoll c8r [] [] with dinCycle := [0x80, 0x81] })).din = [0x81] ∧
    (stateOf (step { inPoll c8r [0x81] [] with dinCycle := [0x80, 0x81] })).answers = [0x80, 0x81] ∧
    (stateOf (step { start c8 [] [] with hostCycle := [0x1000] })).words = [0x1000] ∧
    { start c8 [] [] with hostCycle := [0x1000] }.endedWell = false := ⟨rfl, rfl, rfl, rfl⟩

theorem witness_EveryTransferHasARunThatNeverCompletes :
    c4r.wf = true ∧ c4r.canRead = true ∧ transferOf c4r (.write 0x41) ≠ none ∧ transferOf c4r (.pos 1 15) ≠ none ∧
      (0xFF : Byte).getLsbD 7 = true := by decide

/-- An infinite run: the host issues CLEAR first and nothing after it. -/
def clearRun : Nat → State
  | 0 => State.resetWith c8
  | 1 => stateOf (one c8 [] 0x1000)
  | _ + 2 => clearDone (stateOf (one c8 [] 0x1000))

/-- Its configuration serves `EveryInfiniteSequenceOfWordsIsARun` too. -/
theorem witness_EveryRunKeepsTheInvariant : c8.wf = true ∧ IsRun c8 clearRun ∧ (clearRun 1).trace ≠ [] := by
  refine ⟨by decide, ⟨rfl, fun n => ?_⟩, by decide⟩
  match n with
  | 0 => exact ⟨start c8 [] [0x1000], ⟨[0x1000], [], none, rfl, .inl rfl⟩, rfl⟩
  | 1 => exact ⟨clearRun 1, ⟨[], [], none, rfl, .inl rfl⟩, rfl⟩
  | n + 2 => exact ⟨clearRun (n + 2), ⟨[], [], none, rfl, .inl rfl⟩, rfl⟩

end Sys2Proof.Tests
end

section
/-! Pins and latched transfers are those of the trace (R14, R21, R31, R62): the relation between a step's events and the
record, kept by every sequence of micro-steps and so by every step with nothing out of turn. -/

namespace Sys2Proof.Machine

/-- From `s` to `t` exactly the events `es` occurred: they are what `t` adds to the trace, and the pins and the latched
transfers of `t` are those that follow from them (R21, R31, R62). -/
structure Records (es : List Event) (s t : State) : Prop where
  trace : t.trace = s.trace ++ es
  pins : t.pins = s.pins.afterAll es
  latched : t.latched = s.latched ++ latchLog s.pins es

theorem runPrims_records (ps : List Prim) (s : State) : Records (scriptEvents ps s) s (runPrims ps s) :=
  ⟨runPrims_trace ps s, runPrims_pins ps s, runPrims_latched ps s⟩

/-- Whatever sequence runs with nothing out of turn, its events are those of the part that ran: the whole of it, or the
part before an exit test of the poll that found the device busy (R142). Only `rst` makes the pins change without an
event, and none is to come. -/
theorem runScript_records {ps : List Prim} {s t : State} (hu : s.upset = none) (h : runScript ps s = .next t) :
    ∃ es, Records es s t := by
  obtain ⟨pre, _, _, hrst, _⟩ | ⟨pre, rest, _, _, _, rfl⟩ | rfl := runScript_next_cases h
  · have hcalm : (runPrims pre s).upset = none := runPrims_calm pre hu
    simp [hcalm] at hrst
  · obtain ⟨htrace, hpins, hlatched⟩ := runPrims_records pre s
    exact ⟨_, htrace, hpins, hlatched⟩
  · exact ⟨_, runPrims_records ps s⟩

/-- A step with nothing out of turn is a run of a sequence of micro-steps, after `done` has fallen or the host's next word
has been accepted (R33). An idle LCDC without a word runs the empty sequence. -/
theorem step_is_script {s t : State} (hu : s.upset = none) (h : step s = .next t) :
    ∃ u ps, (u = clearDone s ∨ ∃ w ws, u = accept w ws s) ∧ runScript ps u = .next t := by
  obtain ⟨hrst, _⟩ | ⟨_, _, rfl⟩ | ⟨_, _, hresume⟩ | ⟨w, ws, _, _, hrun⟩ := step_next_cases h
  · simp [hu] at hrst
  · exact ⟨clearDone s, [], .inl rfl, rfl⟩
  · exact ⟨clearDone s, _, .inl rfl, hresume⟩
  · obtain ⟨ps, hps⟩ := runAccepted_is_script (accept w ws s)
    exact ⟨accept w ws s, ps, .inr ⟨w, ws, rfl⟩, hps ▸ hrun⟩

/-- What precedes the micro-steps of a step is no event: it leaves the record as it is. -/
theorem step_records {s t : State} (hu : s.upset = none) (h : step s = .next t) : ∃ es, Records es s t := by
  obtain ⟨_, _, rfl | ⟨_, _, rfl⟩, hrun⟩ := step_is_script hu h <;>
  · obtain ⟨es, htrace, hpins, hlatched⟩ := runScript_records (by simpa using hu) hrun
    exact ⟨es, by simpa using htrace, by simpa using hpins, by simpa using hlatched⟩

/-- Settles O39: a step with nothing out of turn runs a sequence of micro-steps, each of which writes the pins and the
latch log as its event says. -/
theorem pinsAndLatchesFollowTheTrace : Obligations.PinsAndLatchesFollowTheTrace := by
  intro s t hu h
  obtain ⟨es, htrace, hpins, hlatched⟩ := step_records hu h
  exact ⟨es, htrace, hpins, hlatched⟩

end Sys2Proof.Machine
end

section
/-! How a step runs, with anything out of turn (R201, R206): the shapes of the operations' sequences, where a sequence can
end, and how a transfer and a poll go on. -/

namespace Sys2Proof.Machine

/-- The sequences that operations run on a binding: an error completion (R186), the backlight line (R161), one transfer
(R150), and INIT on either bus width (R130). -/
inductive OpScript (c : Cfg) : List Prim → Prop
  | fail (st : Status) : OpScript c [.complete st]
  | light (on : Bool) (line : c.hasBacklight = true) : OpScript c [.setBL on, .complete .ok]
  | send (x : Xfer) : OpScript c (transfers c [x])
  | initEight (fs : Byte) (width : c.busWidth = .eight) : OpScript c (preamble8 c fs ++ transfers c bringUp)
  | initFour (fs : Byte) (width : c.busWidth = .four) :
      OpScript c (preamble4 c fs ++ transfers c (cmd fs .short :: bringUp))

/-- Which sequence an operation runs depends on the operation and the configuration alone. -/
theorem exec_runs_opScript (i : Instr) (c : Cfg) :
    ∃ ps, OpScript c ps ∧ ∀ s : State, s.cfg = c → exec i s = runScript ps s := by
  cases i with
  | init n f =>
    cases hw : c.busWidth with
    | eight =>
      refine ⟨_, .initEight (functionSet .eight n f) hw, ?_⟩
      rintro s rfl
      simp [exec, execInit, hw]
    | four =>
      refine ⟨_, .initFour (functionSet .four n f) hw, ?_⟩
      rintro s rfl
      simp [exec, execInit, hw]
  | pos row col =>
    cases ha : posAddress c row col with
    | none =>
      refine ⟨_, .fail .invalidArgument, ?_⟩
      rintro s rfl
      simp [exec, execPos, failWith, ha]
    | some addr7 =>
      refine ⟨_, .send (cmd (ddByte addr7) .short), ?_⟩
      rintro s rfl
      simp [exec, execPos, runTransfers, ha]
  | backlight on =>
    cases hl : c.hasBacklight with
    | false =>
      refine ⟨_, .fail .illegalOperation, ?_⟩
      rintro s rfl
      simp [exec, execBacklight, failWith, hl]
    | true =>
      refine ⟨_, .light on hl, ?_⟩
      rintro s rfl
      simp [exec, execBacklight, hl]
  | _ => exact ⟨_, .send _, by rintro s rfl; rfl⟩

/-- An accepted word runs one of these sequences too, legal or not. -/
theorem runAccepted_runs_opScript (s : State) : ∃ ps, OpScript s.cfg ps ∧ runAccepted s = runScript ps s := by
  unfold runAccepted
  split
  · rename_i i _
    obtain ⟨ps, hps, hrun⟩ := exec_runs_opScript i s.cfg
    exact ⟨ps, hps, hrun s rfl⟩
  · exact ⟨_, .fail .illegalOperation, rfl⟩

/-- A next state is reached by a part of the sequence, after which only the place in the sequence is noted, or `rst`
comes. -/
theorem runScript_end {ps : List Prim} {s t : State} (h : runScript ps s = .next t) :
    ∃ pre, pre <+: ps ∧ ((∃ q, t = { runPrims pre s with seq := q }) ∨
      ((runPrims pre s).upset = some (0, .rst) ∧ t = applyReset (runPrims pre s))) := by
  obtain ⟨pre, post, rfl, hrst, rfl⟩ | ⟨pre, rest, post, rfl, _, rfl⟩ | rfl := runScript_next_cases h
  · exact ⟨pre, List.prefix_append .., .inr ⟨hrst, rfl⟩⟩
  · exact ⟨pre, List.prefix_append .., .inl ⟨_, rfl⟩⟩
  · exact ⟨ps, List.prefix_rfl, .inl ⟨_, rfl⟩⟩

/-- With nothing out of turn no `rst` cuts the sequence. -/
theorem runScript_end_of_calm {ps : List Prim} {s t : State} (hu : s.upset = none) (h : runScript ps s = .next t) :
    ∃ pre q, t = { runPrims pre s with seq := q } := by
  obtain ⟨pre, _, ⟨q, rfl⟩ | ⟨hrst, _⟩⟩ := runScript_end h
  · exact ⟨pre, q, rfl⟩
  · simp [runPrims_calm pre hu] at hrst

theorem runScript_cfg {ps : List Prim} {s t : State} (h : runScript ps s = .next t) : t.cfg = s.cfg := by
  obtain ⟨pre, _, ⟨q, rfl⟩ | ⟨_, rfl⟩⟩ := runScript_end h <;> simp

/-- `t` is reached by `rst` on the binding `c` (R200). -/
def IsCut (c : Cfg) (t : State) : Prop := ∃ u, u.cfg = c ∧ t = applyReset u

/-- The first micro-step of a sequence: it is cut there, or it is an exit test that ends the step in the loop (R142), or
the rest of the sequence runs after it. -/
theorem runScript_cons_cases {p : Prim} {ps : List Prim} {s t : State} (h : runScript (p :: ps) s = .next t) :
    IsCut s.cfg t ∨
    (∃ rest, p = .pollTest rest ∧ stillBusy s = true ∧ t = { s with seq := .polling rest }) ∨
    runScript ps (doPrim p s) = .next t := by
  unfold runScript at h
  split at h
  · exact .inl ⟨s, rfl, by simpa using h.symm⟩
  · simp at h
  · split at h
    · rename_i rest
      split at h
      · rename_i hbusy
        exact .inr (.inl ⟨rest, rfl, hbusy, by simpa using h.symm⟩)
      · exact .inr (.inr h)
    · exact .inr (.inr h)

/-- A sequence without an exit test is cut, or runs to its end, and what follows it runs. -/
theorem runScript_plain_append_cases {ps : List Prim} (hp : ps.all Prim.plain = true) (qs : List Prim) {s t : State}
    (h : runScript (ps ++ qs) s = .next t) : IsCut s.cfg t ∨ runScript qs (runPrims ps s) = .next t := by
  induction ps generalizing s with
  | nil => exact .inr h
  | cons p ps ih =>
    simp only [List.all_cons, Bool.and_eq_true] at hp
    obtain hcut | ⟨rest, rfl, _⟩ | h := runScript_cons_cases h
    · exact .inl hcut
    · simp [Prim.plain] at hp
    · simpa using ih hp.2 h

/-- One pass through the loop of `BUSYPOLL` (R142). -/
theorem runScript_pollLoop_cases {c : Cfg} {rest : List Xfer} {qs : List Prim} {s t : State}
    (h : runScript (pollLoop c rest ++ qs) s = .next t) :
    IsCut s.cfg t ∨
    (stillBusy (runPrims (readStatus c) s) = true ∧ t = { runPrims (readStatus c) s with seq := .polling rest }) ∨
    runScript qs (setRW false (leavePoll (runPrims (readStatus c) s))) = .next t := by
  rw [pollLoop, List.append_assoc] at h
  obtain hcut | h := runScript_plain_append_cases (readStatus_plain c) _ h
  · exact .inl hcut
  obtain hcut | ⟨_, ⟨⟩, hbusy⟩ | h := runScript_cons_cases h
  · exact .inl (by simpa using hcut)
  · exact .inr (.inl hbusy)
  · obtain hcut | h := runScript_plain_append_cases (ps := [.setRW false]) rfl qs h
    · exact .inl (by simpa [doPrim] using hcut)
    · exact .inr (.inr h)

/-- A transfer on a binding that cannot read (R114, R141). -/
theorem runScript_xfer_fixed_cases {c : Cfg} (hc : c.canRead = false) {x : Xfer} {rest : List Xfer} {qs : List Prim}
    {s t : State} (h : runScript (xfer c x rest ++ qs) s = .next t) :
    IsCut s.cfg t ∨
      runScript qs (runPrims ([.loadTier x.tier] ++ rawByte c x.rs x.byte ++ [.requestTier, .await]) s) = .next t := by
  have hx : xfer c x rest = [.loadTier x.tier] ++ rawByte c x.rs x.byte ++ [.requestTier, .await] := by
    simp [xfer, sync, hc]
  exact runScript_plain_append_cases (by simp [rawByte_plain, Prim.plain, -List.all_eq_true]) _ (hx ▸ h)

/-- A transfer on a binding that can read (R114, R142). -/
theorem runScript_xfer_poll_cases {c : Cfg} (hc : c.canRead = true) {x : Xfer} {rest : List Xfer} {qs : List Prim}
    {s t : State} (h : runScript (xfer c x rest ++ qs) s = .next t) :
    IsCut s.cfg t ∨
      runScript (pollLoop c rest ++ qs)
        (runPrims ([.loadTier x.tier] ++ rawByte c x.rs x.byte ++ [.setRS false, .setRW true]) s) = .next t := by
  have hx : xfer c x rest ++ qs = ([.loadTier x.tier] ++ rawByte c x.rs x.byte ++ [.setRS false, .setRW true])
      ++ (pollLoop c rest ++ qs) := by simp [xfer, sync, hc, busyPoll]
  exact runScript_plain_append_cases (by simp [rawByte_plain, Prim.plain, -List.all_eq_true]) _ (hx ▸ h)

end Sys2Proof.Machine
end

section
/-! What a binding lets a sequence do (R22, R34, R190): on four lines nibbles are driven only, RW is written and the lines
sampled only where they can be read, BL is written only where its line is. -/

namespace Sys2Proof.Machine

/-- Whether a binding has the lines that a micro-step uses. -/
def Prim.allowed (c : Cfg) : Prim → Bool
  | .driveByte => c.busWidth == .eight
  | .setBL _ => c.hasBacklight
  | .setRW _ => c.canRead
  | .sampleByte => c.canRead
  | .sampleHigh => c.canRead
  | .sampleLow => c.canRead
  | .loadByte _ => true
  | .loadTier _ => true
  | .setRS _ => true
  | .setEN _ => true
  | .driveHigh => true
  | .driveLow => true
  | .request _ => true
  | .requestTier => true
  | .await => true
  | .pollTest _ => true
  | .complete _ => true

theorem rawByte_allowed (c : Cfg) (rs : Bool) (b : Byte) : (rawByte c rs b).all (Prim.allowed c) = true := by
  cases hw : c.busWidth <;> simp [rawByte, hw, raw8, raw4, pulse, delay, Prim.allowed]

theorem pollLoop_allowed {c : Cfg} (hc : c.canRead = true) (rest : List Xfer) :
    (pollLoop c rest).all (Prim.allowed c) = true := by
  cases hw : c.busWidth <;> simp [pollLoop, readStatus, hw, readCyc, delay, Prim.allowed, hc]

theorem sync_allowed (c : Cfg) (rest : List Xfer) : (sync c rest).all (Prim.allowed c) = true := by
  cases hc : c.canRead with
  | false => simp [sync, hc, Prim.allowed]
  | true =>
    have hloop := pollLoop_allowed hc rest
    simpa [sync, hc, busyPoll, Prim.allowed] using hloop

theorem transfers_allowed (c : Cfg) (xs : List Xfer) : (transfers c xs).all (Prim.allowed c) = true := by
  induction xs with
  | nil => rfl
  | cons x rest ih =>
    simp only [transfers, xfer, List.all_append, rawByte_allowed, sync_allowed, ih]
    rfl

theorem OpScript.allowed {c : Cfg} {ps : List Prim} (h : OpScript c ps) : ps.all (Prim.allowed c) = true := by
  cases h with
  | fail st => rfl
  | light on line => simp [Prim.allowed, line]
  | send x => exact transfers_allowed c [x]
  | initEight fs width =>
    rw [List.all_append, transfers_allowed, Bool.and_true]
    simp [preamble8, raw8, pulse, delay, Prim.allowed, width]
  | initFour fs width =>
    rw [List.all_append, transfers_allowed, Bool.and_true]
    simp [preamble4, rawNib, pulse, delay, Prim.allowed]

/-- A step is `rst`, or it runs a sequence of what the binding allows, after `done` has fallen or the host's next word has
been accepted (R33). -/
theorem step_runs_allowed {s t : State} (h : step s = .next t) :
    t = applyReset s ∨ ∃ u ps, (u = clearDone s ∨ ∃ w ws, u = accept w ws s) ∧
      (s.Inv → ps.all (Prim.allowed u.cfg) = true) ∧ runScript ps u = .next t := by
  obtain ⟨_, rfl⟩ | ⟨_, _, rfl⟩ | ⟨rest, hseq, hresume⟩ | ⟨w, ws, _, _, hrun⟩ := step_next_cases h
  · exact .inl rfl
  · exact .inr ⟨clearDone s, [], .inl rfl, fun _ => rfl, rfl⟩
  · refine .inr ⟨clearDone s, _, .inl rfl, fun hinv => ?_, hresume⟩
    obtain ⟨_, _, hread, _⟩ := hinv.pollReads rest hseq
    rw [List.all_append, clearDone_cfg, pollLoop_allowed hread, transfers_allowed]
    rfl
  · obtain ⟨ps, hps, heq⟩ := runAccepted_runs_opScript (accept w ws s)
    exact .inr ⟨accept w ws s, ps, .inr ⟨w, ws, rfl⟩, fun _ => hps.allowed, heq ▸ hrun⟩

/-- What the pins show exists on the binding: a value that fits the lines (R21), and BL 0 without its line (R190). -/
structure State.OnBoard (s : State) : Prop where
  fits : s.cfg.busWidth = .four → s.pins.dout.toNat < 16
  noLight : s.cfg.hasBacklight = false → s.pins.bl = false

theorem setWidth_nibble_lt (n : Nibble) : (n.setWidth 8).toNat < 16 := by
  rw [BitVec.toNat_setWidth]
  omega

theorem doPrim_onBoard {p : Prim} {s : State} (hp : p.allowed s.cfg = true) (hs : s.OnBoard) : (doPrim p s).OnBoard := by
  obtain ⟨hfits, hlight⟩ := hs
  cases p with
  | driveByte => exact ⟨by simp_all [doPrim, Prim.allowed], hlight⟩
  | driveHigh => exact ⟨fun _ => setWidth_nibble_lt _, hlight⟩
  | driveLow => exact ⟨fun _ => setWidth_nibble_lt _, hlight⟩
  | setBL b => exact ⟨hfits, by simp_all [doPrim, Prim.allowed]⟩
  | _ => exact ⟨by simpa [doPrim, sampleByte, sampleHigh, sampleLow] using hfits,
      by simpa [doPrim, sampleByte, sampleHigh, sampleLow] using hlight⟩

theorem runPrims_onBoard {ps : List Prim} {s : State} (hps : ps.all (Prim.allowed s.cfg) = true) (hs : s.OnBoard) :
    (runPrims ps s).OnBoard := by
  induction ps generalizing s with
  | nil => exact hs
  | cons p ps ih =>
    simp only [List.all_cons, Bool.and_eq_true] at hps
    exact ih (by simpa using hps.2) (doPrim_onBoard hps.1 hs)

theorem applyReset_onBoard (s : State) : (applyReset s).OnBoard := ⟨fun _ => by simp [Pins.reset], fun _ => rfl⟩

theorem all_of_prefix {α : Type} {p : α → Bool} {xs ys : List α} (h : xs <+: ys) (hys : ys.all p = true) :
    xs.all p = true := by
  rw [List.all_eq_true] at hys ⊢
  exact fun x hx => hys x (h.subset hx)

theorem runScript_onBoard {ps : List Prim} {s t : State} (hps : ps.all (Prim.allowed s.cfg) = true) (hs : s.OnBoard)
    (h : runScript ps s = .next t) : t.OnBoard := by
  obtain ⟨pre, hpre, ⟨q, rfl⟩ | ⟨_, rfl⟩⟩ := runScript_end h
  · obtain ⟨hfits, hlight⟩ := runPrims_onBoard (all_of_prefix hpre hps) hs
    exact ⟨hfits, hlight⟩
  · exact applyReset_onBoard _

theorem step_onBoard {s t : State} (hinv : s.Inv) (h : step s = .next t) : t.OnBoard := by
  obtain rfl | ⟨u, ps, hu, hps, hrun⟩ := step_runs_allowed h
  · exact applyReset_onBoard s
  · have hboard : u.OnBoard := by
      obtain rfl | ⟨w, ws, rfl⟩ := hu <;> exact ⟨hinv.fits, hinv.noLight⟩
    exact runScript_onBoard (hps hinv) hboard hrun

end Sys2Proof.Machine
end

section
/-! The invariant of LCDC between two steps (R36, R22, R29, R134, R142): what holds between two transfers of an operation,
in the loop of the poll, and where a step can end. -/

namespace Sys2Proof.Machine

/-- Between two transfers of a step that began in `s₀`: the bus is idle as at an operation boundary (R36), and no status
byte is stored unless `s₀` stored one where it may not (R29). -/
structure State.Between (s₀ s : State) : Prop where
  cfg : s.cfg = s₀.cfg
  enLow : s.pins.en = false
  rwLow : s.pins.rw = false
  noRequest : s.dlyReq = false
  noFlag : s₀.FlagOnlyInLoop → s.sts = none

/-- At the top of the loop of `BUSYPOLL` (R142), on a binding that can read. -/
structure State.InLoop (s₀ s : State) : Prop where
  cfg : s.cfg = s₀.cfg
  rsLow : s.pins.rs = false
  enLow : s.pins.en = false
  rwHigh : s.pins.rw = true
  noRequest : s.dlyReq = false
  reads : s₀.cfg.canRead = true

/-- Where a step that began in `s₀` may end: what the invariant and R29 say of the sequence, leaving out what the board
fixes (`OnBoard`). -/
structure State.Landed (s₀ t : State) : Prop where
  cfg : t.cfg = s₀.cfg
  enLow : t.pins.en = false
  idleWrites : t.seq = .idle → t.pins.rw = false
  pollReads : ∀ rest, t.seq = .polling rest →
    t.pins.rw = true ∧ t.pins.rs = false ∧ s₀.cfg.canRead = true ∧ rest <:+ bringUp
  noRequest : t.dlyReq = false
  flag : s₀.FlagOnlyInLoop → t.FlagOnlyInLoop

theorem IsCut.landed {s₀ t : State} (h : IsCut s₀.cfg t) : s₀.Landed t := by
  obtain ⟨u, hu, rfl⟩ := h
  exact ⟨hu, rfl, fun _ => rfl, by simp, rfl, fun _ => ⟨fun _ => rfl, by simp⟩⟩

/-- An operation ends where the bus is idle. -/
theorem State.Between.landed_of_idle {s₀ s : State} (h : s₀.Between s) (hidle : s.seq = .idle) : s₀.Landed s :=
  ⟨h.cfg, h.enLow, fun _ => h.rwLow, by simp [hidle], h.noRequest, fun hf => ⟨fun _ => h.noFlag hf, by simp [hidle]⟩⟩

theorem complete_lands {s₀ s t : State} {st : Status} (hs : s₀.Between s)
    (h : runScript [.complete st] s = .next t) : s₀.Landed t := by
  obtain hcut | ⟨_, ⟨⟩, _⟩ | h := runScript_cons_cases h
  · exact IsCut.landed (hs.cfg ▸ hcut)
  · obtain rfl : complete st s = t := by simpa [runScript, doPrim] using h
    have hdone : s₀.Between (complete st s) := ⟨hs.cfg, hs.enLow, hs.rwLow, hs.noRequest, hs.noFlag⟩
    exact hdone.landed_of_idle rfl

/-! ### The pieces of a sequence -/

/-- A piece that ends with EN low and no request pending, and touches neither RW nor the status byte. -/
theorem State.Between.keep {s₀ s t : State} (hs : s₀.Between s) (hcfg : t.cfg = s.cfg) (hen : t.pins.en = false)
    (hrw : t.pins.rw = s.pins.rw) (hreq : t.dlyReq = false) (hsts : t.sts = s.sts) : s₀.Between t :=
  ⟨hcfg.trans hs.cfg, hen, hrw.trans hs.rwLow, hreq, fun hf => hsts.trans (hs.noFlag hf)⟩

theorem delay_between {s₀ s : State} (n : Micros) (hs : s₀.Between s) : s₀.Between (runPrims (delay n) s) := by
  apply hs.keep <;> simp [delay, doPrim, hs.enLow]

theorem raw8_between {s₀ s : State} (c : Cfg) (rs : Bool) (b : Byte) (hs : s₀.Between s) :
    s₀.Between (runPrims (raw8 c rs b) s) := by
  apply hs.keep <;> simp [raw8, pulse, delay, doPrim]

theorem raw4_between {s₀ s : State} (c : Cfg) (rs : Bool) (b : Byte) (hs : s₀.Between s) :
    s₀.Between (runPrims (raw4 c rs b) s) := by
  apply hs.keep <;> simp [raw4, pulse, delay, doPrim]

theorem rawNib_between {s₀ s : State} (c : Cfg) (rs : Bool) (n : Nibble) (hs : s₀.Between s) :
    s₀.Between (runPrims (rawNib c rs n) s) := by
  apply hs.keep <;> simp [rawNib, pulse, delay, doPrim]

theorem rawByte_between {s₀ s : State} (c : Cfg) (rs : Bool) (b : Byte) (hs : s₀.Between s) :
    s₀.Between (runPrims (rawByte c rs b) s) := by
  unfold rawByte
  split
  · exact raw8_between c rs b hs
  · exact raw4_between c rs b hs

/-- The write part of a transfer, its tier latched (R114). -/
theorem writePart_between {s₀ s : State} (c : Cfg) (x : Xfer) (hs : s₀.Between s) :
    s₀.Between (runPrims ([.loadTier x.tier] ++ rawByte c x.rs x.byte) s) := by
  have hloaded : s₀.Between (doPrim (.loadTier x.tier) s) := ⟨hs.cfg, hs.enLow, hs.rwLow, hs.noRequest, hs.noFlag⟩
  simpa using rawByte_between c x.rs x.byte hloaded

theorem preamble8_between {s₀ s : State} (c : Cfg) (fs : Byte) (hs : s₀.Between s) :
    s₀.Between (runPrims (preamble8 c fs) s) := by
  simp only [preamble8, runPrims_append]
  exact delay_between _ <| raw8_between _ _ _ <| delay_between _ <| raw8_between _ _ _ <|
    delay_between _ <| raw8_between _ _ _ hs

theorem preamble4_between {s₀ s : State} (c : Cfg) (fs : Byte) (hs : s₀.Between s) :
    s₀.Between (runPrims (preamble4 c fs) s) := by
  simp only [preamble4, runPrims_append]
  exact delay_between _ <| rawNib_between _ _ _ <| delay_between _ <| rawNib_between _ _ _ <|
    delay_between _ <| rawNib_between _ _ _ hs

/-- `SYNC` on a binding that cannot read (R141). -/
theorem tierDelay_between {s₀ s : State} (hs : s₀.Between s) :
    s₀.Between (runPrims [.requestTier, .await] s) := by
  apply hs.keep <;> simp [doPrim, hs.enLow]

/-- The way into the loop of `BUSYPOLL` (R142). -/
theorem State.Between.inLoop {s₀ s : State} (hs : s₀.Between s) (hc : s₀.cfg.canRead = true) :
    s₀.InLoop (runPrims [.setRS false, .setRW true] s) := by
  constructor <;> simp [doPrim, hs.cfg, hs.enLow, hs.noRequest, hc]

/-- A status read (R144, R145) stays in the loop. -/
theorem readStatus_inLoop {s₀ s : State} (c : Cfg) (hs : s₀.InLoop s) : s₀.InLoop (runPrims (readStatus c) s) := by
  cases hw : c.busWidth <;> constructor <;>
    simp [readStatus, hw, readCyc, delay, doPrim, sampleByte, sampleHigh, sampleLow, hs.cfg, hs.rsLow, hs.rwHigh, hs.reads]

/-- The way out of the loop: write direction, and no status byte stored (R142, R29). -/
theorem State.InLoop.left {s₀ s : State} (hs : s₀.InLoop s) : s₀.Between (setRW false (leavePoll s)) := by
  constructor <;> simp [hs.cfg, hs.enLow, hs.noRequest]

/-- A busy exit test ends the step in the loop, where the status byte that said busy is stored (R142, R29). -/
theorem State.InLoop.landed {s₀ s : State} {rest : List Xfer} (hs : s₀.InLoop s) (hbusy : stillBusy s = true)
    (hrest : rest <:+ bringUp) : s₀.Landed { s with seq := .polling rest } where
  cfg := hs.cfg
  enLow := hs.enLow
  idleWrites := by simp
  pollReads := by
    rintro _ ⟨⟩
    exact ⟨hs.rwHigh, hs.rsLow, hs.reads, hrest⟩
  noRequest := hs.noRequest
  flag := fun _ => ⟨by simp, fun _ _ => hbusy⟩

/-! ### Whole sequences -/

/-- A pass through the loop lands if what follows it does. -/
theorem pollLoop_lands {s₀ s t : State} {c : Cfg} {rest : List Xfer} {qs : List Prim} (hs : s₀.InLoop s)
    (hrest : rest <:+ bringUp) (hqs : ∀ u, s₀.Between u → runScript qs u = .next t → s₀.Landed t)
    (h : runScript (pollLoop c rest ++ qs) s = .next t) : s₀.Landed t := by
  have hread := readStatus_inLoop c hs
  obtain hcut | ⟨hbusy, rfl⟩ | h := runScript_pollLoop_cases h
  · exact IsCut.landed (hs.cfg ▸ hcut)
  · exact hread.landed hbusy hrest
  · exact hqs _ hread.left h

/-- Transfers land, those after the first being part of the bring-up (R134). -/
theorem transfers_land {s₀ s t : State} {xs : List Xfer} (hs : s₀.Between s) (hxs : xs.tail <:+ bringUp)
    (h : runScript (transfers s₀.cfg xs) s = .next t) : s₀.Landed t := by
  induction xs generalizing s with
  | nil => exact complete_lands hs h
  | cons x rest ih =>
    have hrest : ∀ u, s₀.Between u → runScript (transfers s₀.cfg rest) u = .next t → s₀.Landed t :=
      fun u hu h => ih hu ((List.tail_suffix rest).trans hxs) h
    have hwritten := writePart_between s₀.cfg x hs
    cases hc : s₀.cfg.canRead with
    | false =>
      obtain hcut | h := runScript_xfer_fixed_cases hc h
      · exact IsCut.landed (hs.cfg ▸ hcut)
      · rw [runPrims_append] at h
        exact hrest _ (tierDelay_between hwritten) h
    | true =>
      obtain hcut | h := runScript_xfer_poll_cases hc h
      · exact IsCut.landed (hs.cfg ▸ hcut)
      · rw [runPrims_append] at h
        exact pollLoop_lands (hwritten.inLoop hc) hxs hrest h

theorem preamble8_plain (c : Cfg) (fs : Byte) : (preamble8 c fs).all Prim.plain = true := by
  simp [preamble8, raw8, pulse, delay, Prim.plain]

theorem preamble4_plain (c : Cfg) (fs : Byte) : (preamble4 c fs).all Prim.plain = true := by
  simp [preamble4, rawNib, pulse, delay, Prim.plain]

theorem OpScript.lands {s₀ s t : State} {ps : List Prim} (hps : OpScript s₀.cfg ps) (hs : s₀.Between s)
    (h : runScript ps s = .next t) : s₀.Landed t := by
  cases hps with
  | fail st => exact complete_lands hs h
  | light on line =>
    obtain hcut | ⟨_, ⟨⟩, _⟩ | h := runScript_cons_cases h
    · exact IsCut.landed (hs.cfg ▸ hcut)
    · have hlit : s₀.Between (doPrim (.setBL on) s) := ⟨hs.cfg, hs.enLow, hs.rwLow, hs.noRequest, hs.noFlag⟩
      exact complete_lands hlit h
  | send x => exact transfers_land (xs := [x]) hs List.nil_suffix h
  | initEight fs width =>
    obtain hcut | h := runScript_plain_append_cases (preamble8_plain _ fs) _ h
    · exact IsCut.landed (hs.cfg ▸ hcut)
    · exact transfers_land (preamble8_between _ fs hs) (List.tail_suffix _) h
  | initFour fs width =>
    obtain hcut | h := runScript_plain_append_cases (preamble4_plain _ fs) _ h
    · exact IsCut.landed (hs.cfg ▸ hcut)
    · exact transfers_land (preamble4_between _ fs hs) List.suffix_rfl h

theorem step_lands {s t : State} (hinv : s.Inv) (h : step s = .next t) : s.Landed t := by
  obtain ⟨_, rfl⟩ | ⟨hidle, _, rfl⟩ | ⟨rest, hseq, hresume⟩ | ⟨w, ws, hidle, _, hrun⟩ := step_next_cases h
  · exact IsCut.landed ⟨s, rfl, rfl⟩
  · have hs : s.Between (clearDone s) :=
      ⟨rfl, hinv.enLow, hinv.idleWrites hidle, hinv.noRequest, fun hf => hf.idle hidle⟩
    exact hs.landed_of_idle hidle
  · obtain ⟨hrw, hrs, hread, hrest⟩ := hinv.pollReads rest hseq
    have hs : s.InLoop (clearDone s) := ⟨rfl, hrs, hinv.enLow, hrw, hinv.noRequest, hread⟩
    exact pollLoop_lands hs hrest (fun u hu h => transfers_land hu ((List.tail_suffix rest).trans hrest) h) hresume
  · have hs : s.Between (accept w ws s) :=
      ⟨rfl, hinv.enLow, hinv.idleWrites hidle, hinv.noRequest, fun hf => hf.idle hidle⟩
    obtain ⟨ps, hps, heq⟩ := runAccepted_runs_opScript (accept w ws s)
    exact OpScript.lands hps hs (heq ▸ hrun)

/-- Settles O34: the board keeps what the pins can show, and each piece of a sequence leaves the bus as the next one needs
it, so that a step lands idle or in the loop. -/
theorem everyStepKeepsTheInvariant : Obligations.EveryStepKeepsTheInvariant := by
  intro s t hinv h
  obtain ⟨hcfg, henLow, hidle, hpoll, hreq, hflag⟩ := step_lands hinv h
  obtain ⟨hfits, hlight⟩ := step_onBoard hinv h
  refine ⟨?_, hflag⟩
  exact ⟨hcfg ▸ hinv.legal, henLow, hidle, hcfg ▸ hpoll, hfits, hlight, hreq⟩

end Sys2Proof.Machine
end

section
/-! Definite assignment of the transient latches (R26): a sequence that loads `BYTE`, `TIER`, `RDH` and `S` before it uses
them does the same in states that agree on the configuration and the device's answers. -/

namespace Sys2Proof.Machine

/-- Which transient latches (R26) have been loaded since the beginning of a sequence. -/
structure Loaded where
  byte : Bool
  tier : Bool
  rdh : Bool
  sts : Bool

/-- Whether the latches that a micro-step uses have been loaded. -/
def Prim.usesLoaded (k : Loaded) : Prim → Bool
  | .driveByte => k.byte
  | .driveHigh => k.byte
  | .driveLow => k.byte
  | .requestTier => k.tier
  | .sampleLow => k.rdh
  | .pollTest _ => k.sts
  | .loadByte _ => true
  | .loadTier _ => true
  | .setRS _ => true
  | .setEN _ => true
  | .setRW _ => true
  | .setBL _ => true
  | .request _ => true
  | .await => true
  | .sampleByte => true
  | .sampleHigh => true
  | .complete _ => true

/-- The latches loaded after a micro-step. -/
def Prim.loads (k : Loaded) : Prim → Loaded
  | .loadByte _ => { k with byte := true }
  | .loadTier _ => { k with tier := true }
  | .sampleByte => { k with sts := true }
  | .sampleHigh => { k with rdh := true }
  | .sampleLow => { k with sts := true }
  | .pollTest _ => k
  | .setRS _ => k
  | .setEN _ => k
  | .setRW _ => k
  | .setBL _ => k
  | .driveByte => k
  | .driveHigh => k
  | .driveLow => k
  | .request _ => k
  | .requestTier => k
  | .await => k
  | .complete _ => k

/-- Whether a sequence loads every latch before it uses it. -/
def loadsBeforeUse : Loaded → List Prim → Bool
  | _, [] => true
  | k, p :: ps => p.usesLoaded k && loadsBeforeUse (p.loads k) ps

theorem transfers_loadBeforeUse (c : Cfg) (xs : List Xfer) (k : Loaded) : loadsBeforeUse k (transfers c xs) = true := by
  induction xs generalizing k with
  | nil => rfl
  | cons x rest ih =>
    cases hw : c.busWidth <;> cases hc : c.canRead <;>
      simp [transfers, xfer, rawByte, raw8, raw4, pulse, delay, sync, busyPoll, pollLoop, readStatus, readCyc, hw, hc,
        loadsBeforeUse, Prim.usesLoaded, Prim.loads, ih]

theorem OpScript.loadsBeforeUse {c : Cfg} {ps : List Prim} (h : OpScript c ps) (k : Loaded) :
    loadsBeforeUse k ps = true := by
  cases h with
  | fail st => rfl
  | light on line => rfl
  | send x => exact transfers_loadBeforeUse c [x] k
  | initEight fs width =>
    simp [preamble8, raw8, pulse, delay, Machine.loadsBeforeUse, Prim.usesLoaded, Prim.loads, transfers_loadBeforeUse]
  | initFour fs width =>
    simp [preamble4, rawNib, pulse, delay, Machine.loadsBeforeUse, Prim.usesLoaded, Prim.loads, transfers_loadBeforeUse]

/-- Two runs of a sequence that began in `s₀` and `s₀'` have had the same events so far, stand at the same place with the
same answers of the device to come, and agree on what has been loaded. -/
structure Agree (s₀ s₀' : State) (k : Loaded) (s s' : State) : Prop where
  cfg : s.cfg = s'.cfg
  din : s.din = s'.din
  dinCycle : s.dinCycle = s'.dinCycle
  samples : s.samples = s'.samples
  calm : s.upset = none
  calm' : s'.upset = none
  seq : s.seq = s'.seq
  done : s.done = s'.done
  status : s.done = true → s.status = s'.status
  events : ∃ es, s.trace = s₀.trace ++ es ∧ s'.trace = s₀'.trace ++ es
  byte : k.byte = true → s.byte = s'.byte
  tier : k.tier = true → s.tier = s'.tier
  rdh : k.rdh = true → s.rdh = s'.rdh
  sts : k.sts = true → s.sts = s'.sts

variable {s₀ s₀' s s' : State} {k : Loaded}

theorem Agree.lineValue (h : Agree s₀ s₀' k s s') : lineValue s = lineValue s' :=
  lineValue_congr h.cfg h.din h.dinCycle h.samples

/-- A micro-step whose latches have been loaded has the same event in both. -/
theorem Agree.primEvents {p : Prim} (h : Agree s₀ s₀' k s s') (hp : p.usesLoaded k = true) :
    primEvents p s = primEvents p s' := by
  cases p with
  | driveByte => simp [Machine.primEvents, h.byte hp]
  | driveHigh => simp [Machine.primEvents, h.byte hp]
  | driveLow => simp [Machine.primEvents, h.byte hp]
  | requestTier => simp [Machine.primEvents, h.tier hp, h.cfg]
  | sampleByte => simp [Machine.primEvents, h.lineValue]
  | sampleHigh => simp [Machine.primEvents, h.lineValue]
  | sampleLow => simp [Machine.primEvents, h.lineValue]
  | _ => rfl

theorem Agree.doPrim_events {p : Prim} (h : Agree s₀ s₀' k s s') (hp : p.usesLoaded k = true) :
    ∃ es, (doPrim p s).trace = s₀.trace ++ es ∧ (doPrim p s').trace = s₀'.trace ++ es := by
  obtain ⟨es, hs, hs'⟩ := h.events
  exact ⟨es ++ Machine.primEvents p s, by simp [doPrim_trace, hs], by simp [doPrim_trace, hs', h.primEvents hp]⟩

/-- The device's answers left are the same in both. -/
theorem Agree.doPrim_answers {p : Prim} (h : Agree s₀ s₀' k s s') :
    (doPrim p s).din = (doPrim p s').din ∧ (doPrim p s).samples = (doPrim p s').samples := by
  have hused := answerUsed_congr h.din h.dinCycle h.samples
  cases p <;> simp [doPrim, sampleByte, sampleHigh, sampleLow, h.din, h.samples, hused]

theorem Agree.doPrim {p : Prim} (h : Agree s₀ s₀' k s s') (hp : p.usesLoaded k = true) :
    Agree s₀ s₀' (p.loads k) (doPrim p s) (doPrim p s') where
  cfg := by simp [h.cfg]
  din := h.doPrim_answers.1
  dinCycle := by simp [h.dinCycle]
  samples := h.doPrim_answers.2
  calm := doPrim_calm p h.calm
  calm' := doPrim_calm p h.calm'
  events := h.doPrim_events hp
  seq := by cases p <;> simp [Machine.doPrim, sampleByte, sampleHigh, sampleLow, h.seq]
  done := by cases p <;> simp [Machine.doPrim, sampleByte, sampleHigh, sampleLow, h.done]
  status := by
    cases p with
    | complete st => exact fun _ => rfl
    | _ => simpa [Machine.doPrim, sampleByte, sampleHigh, sampleLow] using h.status
  byte := by
    cases p with
    | loadByte b => exact fun _ => rfl
    | _ => simpa [Machine.doPrim, Prim.loads, sampleByte, sampleHigh, sampleLow] using h.byte
  tier := by
    cases p with
    | loadTier t => exact fun _ => rfl
    | _ => simpa [Machine.doPrim, Prim.loads, sampleByte, sampleHigh, sampleLow] using h.tier
  rdh := by
    cases p with
    | sampleHigh => simp [Machine.doPrim, sampleHigh, h.lineValue]
    | pollTest rest => exact fun _ => rfl
    | _ => simpa [Machine.doPrim, Prim.loads, sampleByte, sampleLow] using h.rdh
  sts := by
    cases p with
    | sampleByte => simp [Machine.doPrim, sampleByte, h.lineValue]
    | sampleLow => simp [Machine.doPrim, sampleLow, h.lineValue, h.rdh hp]
    | pollTest rest => exact fun _ => rfl
    | _ => simpa [Machine.doPrim, Prim.loads, sampleHigh] using h.sts

/-- The two runs of a sequence end alike: an exit test, for which `S` has been loaded, finds the same in both. -/
theorem Agree.runScript {ps : List Prim} {t : State} (h : Agree s₀ s₀' k s s') (hps : loadsBeforeUse k ps = true)
    (hrun : runScript ps s = .next t) : ∃ t' k', runScript ps s' = .next t' ∧ Agree s₀ s₀' k' t t' := by
  induction ps generalizing s s' k with
  | nil =>
    obtain rfl : s = t := by simpa [Machine.runScript] using hrun
    exact ⟨s', k, rfl, h⟩
  | cons p ps ih =>
    simp only [loadsBeforeUse, Bool.and_eq_true] at hps
    obtain ⟨huse, hps⟩ := hps
    have hnext := h.doPrim huse
    cases p with
    | pollTest rest =>
      rw [runScript_pollTest rest ps h.calm] at hrun
      rw [runScript_pollTest rest ps h.calm']
      have hbusy : stillBusy s' = stillBusy s := by simp [stillBusy, h.sts huse]
      rw [hbusy]
      split at hrun
      · rename_i hb
        obtain rfl : { s with seq := .polling rest } = t := by simpa using hrun
        exact ⟨{ s' with seq := .polling rest }, k, by rw [if_pos hb], { h with seq := rfl }⟩
      · rename_i hb
        rw [if_neg hb]
        exact ih hnext hps hrun
    | _ =>
      rw [runScript_plain_cons rfl ps h.calm] at hrun
      rw [runScript_plain_cons rfl ps h.calm']
      exact ih hnext hps hrun

/-- Settles O50: whichever sequence the operation runs, it loads the latches before it uses them, so nothing that an earlier
operation left is read. -/
theorem noOperationDependsOnEarlierOnes : Obligations.NoOperationDependsOnEarlierOnes := by
  intro s s' t i hready hready' hcfg hdin hcycle hsamples hdone hdone' hexec
  obtain ⟨ps, hps, hrun⟩ := exec_runs_opScript i s.cfg
  have hstart : Agree s s' ⟨false, false, false, false⟩ s s' :=
    { cfg := hcfg, din := hdin, dinCycle := hcycle, samples := hsamples, calm := hready.calm, calm' := hready'.calm
      seq := hready.idle.trans hready'.idle.symm, done := hdone.trans hdone'.symm, status := by simp [hdone]
      events := ⟨[], by simp⟩, byte := nofun, tier := nofun, rdh := nofun, sts := nofun }
  obtain ⟨t', k', hrun', hend⟩ := hstart.runScript (hps.loadsBeforeUse _) (hrun s rfl ▸ hexec)
  obtain ⟨es, htrace, htrace'⟩ := hend.events
  refine ⟨t', (hrun s' hcfg.symm).trans hrun', ?_, hend.seq, hend.done, hend.status⟩
  simp [newEvents, htrace, htrace']

end Sys2Proof.Machine
end

section
/-! What steps and operations leave as it is (R20, R24, R57, R214), and what a binding that cannot read never does (R22). -/

namespace Sys2Proof.Machine

/-- Settles O35: no micro-step writes `CFG`, and neither does `rst` or the acceptance of a word. -/
theorem noStepChangesTheConfiguration : Obligations.NoStepChangesTheConfiguration := by
  intro s t h
  obtain ⟨_, rfl⟩ | ⟨_, _, rfl⟩ | ⟨_, _, hresume⟩ | ⟨w, ws, _, _, hrun⟩ := step_next_cases h
  · rfl
  · rfl
  · exact runScript_cfg (s := clearDone s) hresume
  · obtain ⟨ps, hps⟩ := runAccepted_is_script (accept w ws s)
    exact runScript_cfg (s := accept w ws s) (hps ▸ hrun)

@[simp] theorem runPrims_opr (ps : List Prim) (s : State) : (runPrims ps s).opr = s.opr := by
  induction ps generalizing s with
  | nil => rfl
  | cons p ps ih => simp [ih]

/-- Settles O49: with nothing out of turn an operation ends where a part of its sequence does, and no micro-step writes the
configuration, `OPR` or the environment but for the front of the device's answers. -/
theorem frameOfEveryOperation : Obligations.FrameOfEveryOperation := by
  intro s t i hcalm hexec
  obtain ⟨ps, hps⟩ := exec_is_script i s
  obtain ⟨pre, q, rfl⟩ := runScript_end_of_calm hcalm (hps ▸ hexec)
  obtain ⟨hdin, hsamples⟩ := runPrims_answers pre s
  refine ⟨runPrims_cfg pre s, runPrims_opr pre s, runPrims_host pre s, runPrims_hostCycle pre s, runPrims_dinCycle pre s,
    runPrims_calm pre hcalm, hdin, hsamples, ?_, ?_⟩
  · exact ⟨_, (runPrims_trace pre s).symm⟩
  · exact ⟨_, (runPrims_latched pre s).symm⟩

/-- From `s` to `t` the device was not read (R22): its answers are all still to come, and no event writes RW or samples the
lines. -/
structure Unread (s t : State) : Prop where
  din : t.din = s.din
  samples : t.samples = s.samples
  events : ∃ es, t.trace = s.trace ++ es ∧ (∀ b, Event.rw b ∉ es) ∧ (∀ v, Event.inp v ∉ es)

theorem Unread.refl (s : State) : Unread s s := ⟨rfl, rfl, [], by simp⟩

theorem Unread.trans {s t u : State} (h : Unread s t) (h' : Unread t u) : Unread s u := by
  obtain ⟨es, htrace, hrw, hin⟩ := h.events
  obtain ⟨fs, htrace', hrw', hin'⟩ := h'.events
  exact ⟨h'.din.trans h.din, h'.samples.trans h.samples, es ++ fs, by simp [htrace, htrace'],
    by simp [hrw, hrw'], by simp [hin, hin']⟩

theorem primEvents_unread {p : Prim} {s : State} (hc : s.cfg.canRead = false) (hp : p.allowed s.cfg = true) :
    (∀ b, Event.rw b ∉ primEvents p s) ∧ (∀ v, Event.inp v ∉ primEvents p s) := by
  cases p with
  | setRW b => simp [Prim.allowed, hc] at hp
  | sampleByte => simp [Prim.allowed, hc] at hp
  | sampleHigh => simp [Prim.allowed, hc] at hp
  | sampleLow => simp [Prim.allowed, hc] at hp
  | _ => simp [primEvents]

theorem doPrim_unread {p : Prim} {s : State} (hc : s.cfg.canRead = false) (hp : p.allowed s.cfg = true) :
    Unread s (doPrim p s) := by
  refine ⟨?_, ?_, _, doPrim_trace p s, primEvents_unread hc hp⟩ <;>
  · cases p with
    | sampleByte => simp [Prim.allowed, hc] at hp
    | sampleHigh => simp [Prim.allowed, hc] at hp
    | sampleLow => simp [Prim.allowed, hc] at hp
    | _ => simp [doPrim]

theorem runPrims_unread {ps : List Prim} {s : State} (hc : s.cfg.canRead = false)
    (hps : ps.all (Prim.allowed s.cfg) = true) : Unread s (runPrims ps s) := by
  induction ps generalizing s with
  | nil => exact Unread.refl s
  | cons p ps ih =>
    simp only [List.all_cons, Bool.and_eq_true] at hps
    exact (doPrim_unread hc hps.1).trans (ih (by simpa using hc) (by simpa using hps.2))

theorem applyReset_unread (s : State) : Unread s (applyReset s) := ⟨rfl, rfl, [], by simp⟩

theorem runScript_unread {ps : List Prim} {s t : State} (hc : s.cfg.canRead = false)
    (hps : ps.all (Prim.allowed s.cfg) = true) (h : runScript ps s = .next t) : Unread s t := by
  obtain ⟨pre, hpre, hend⟩ := runScript_end h
  have hpart := runPrims_unread hc (all_of_prefix hpre hps)
  obtain ⟨q, rfl⟩ | ⟨_, rfl⟩ := hend
  · exact ⟨hpart.din, hpart.samples, hpart.events⟩
  · exact hpart.trans (applyReset_unread _)

theorem step_unread {s t : State} (hinv : s.Inv) (hc : s.cfg.canRead = false) (h : step s = .next t) : Unread s t := by
  obtain rfl | ⟨u, ps, hu, hps, hrun⟩ := step_runs_allowed h
  · exact applyReset_unread s
  · have hstart : Unread s u ∧ u.cfg = s.cfg := by
      obtain rfl | ⟨w, ws, rfl⟩ := hu <;> exact ⟨⟨rfl, rfl, [], by simp⟩, rfl⟩
    exact hstart.1.trans (runScript_unread (hstart.2 ▸ hc) (hps hinv) hrun)

/-- Without read capability LCDC is never in the poll, so the lines are in write direction (R22). -/
theorem State.Inv.rw_of_cannotRead {s : State} (hinv : s.Inv) (hc : s.cfg.canRead = false) : s.pins.rw = false := by
  cases hseq : s.seq with
  | idle => exact hinv.idleWrites hseq
  | polling rest =>
    obtain ⟨_, _, hread, _⟩ := hinv.pollReads rest hseq
    simp [hc] at hread

theorem driven_of_rwLow {s : State} (h : s.pins.rw = false) : s.dOe = true ∧ s.driven = some s.pins.dout := by
  simp [State.driven, State.dOe, h]

theorem driven_of_rwHigh {s : State} (h : s.pins.rw = true) : s.dOe = false ∧ s.driven = none := by
  simp [State.driven, State.dOe, h]

/-- Settles O41: a binding that cannot read allows no micro-step that reads, and the invariant, which the step keeps, leaves
its lines in write direction. -/
theorem withoutReadCapabilityNothingIsRead : Obligations.WithoutReadCapabilityNothingIsRead := by
  refine ⟨fun s => ⟨driven_of_rwLow, driven_of_rwHigh⟩, fun s t hinv hc h => ?_⟩
  obtain ⟨hinv', _⟩ := everyStepKeepsTheInvariant s t hinv h
  have hc' : t.cfg.canRead = false := noStepChangesTheConfiguration s t h ▸ hc
  have hrw := hinv'.rw_of_cannotRead hc'
  obtain ⟨hdin, hsamples, hevents⟩ := step_unread hinv hc h
  exact ⟨hrw, (driven_of_rwLow hrw).2, hdin, hsamples, hevents⟩

end Sys2Proof.Machine
end

section
/-! The acceptance of a word (R33, R57), reset (R32), and the status codes (R28). -/

namespace Sys2Proof.Machine

/-- Settles O8: idle and with no `rst` due, a step accepts the host's next word and runs what it decodes to. -/
theorem stepRunsTheDecodedOperation : Obligations.StepRunsTheDecodedOperation := by
  intro s w ws i hidle hwords hrst hdecode
  have hadvance : step s = advance s := if_neg hrst
  have haccept : advance s = runAccepted (accept w ws s) := by simp [advance, hidle, hwords]
  rw [hadvance, haccept, runAccepted, accept_opr, hdecode]
  rfl

/-- Settles O9: the placed word is the first of the host's, in an idle state in which no `rst` is due, so that the step of O8
runs it. -/
theorem stepRunsThePlacedWord : Obligations.StepRunsThePlacedWord := by
  intro s w i hdecode
  have hplaced : s.withFetchWord 16 w.toNat = presentWord s w := by
    simp [State.withFetchWord, Nat.mod_eq_of_lt w.isLt]
  have hrst : (presentWord s w).upset ≠ some (0, .rst) := by
    simp only [presentWord]
    split <;> simp_all
  rw [hplaced]
  exact stepRunsTheDecodedOperation (presentWord s w) w s.host i rfl (words_of_host rfl) hrst hdecode

theorem resetWith_inv {c : Cfg} (h : c.wf = true) : (State.resetWith c).Inv where
  legal := h
  enLow := rfl
  idleWrites := fun _ => rfl
  pollReads := nofun
  fits := fun _ => by simp [State.resetWith, Pins.reset]
  noLight := fun _ => rfl
  noRequest := rfl

theorem resetWith_flag (c : Cfg) : (State.resetWith c).FlagOnlyInLoop := ⟨fun _ => rfl, nofun⟩

/-- Settles O33: every field the invariant speaks of has its reset value (R32). -/
theorem resetMeetsTheInvariant : Obligations.ResetMeetsTheInvariant :=
  ⟨fun c hc => ⟨resetWith_inv hc, resetWith_flag c⟩, resetWith_inv (by decide), resetWith_flag _⟩

/-- Settles O47: there are three statuses, and none has code 3. -/
theorem statusCodesOnThePort : Obligations.StatusCodesOnThePort := by
  refine ⟨rfl, rfl, rfl, fun st => ?_⟩
  cases st <;> decide

end Sys2Proof.Machine
end

section
/-! The addresses of POS (R51, R158, R163): which configurations are legal, the row map, and the address of a row and a
column in range. -/

namespace Sys2Proof.Machine

/-- The geometry of a legal configuration (R9). -/
theorem geometry_of_wf {c : Cfg} (h : c.wf = true) : (c.rows = 1 ∧ c.cols ≤ 80) ∨ (c.rows = 2 ∧ c.cols ≤ 40) := by
  simp only [Cfg.wf, Cfg.geometryOk, Bool.and_eq_true, Bool.or_eq_true, beq_iff_eq, decide_eq_true_eq] at h
  omega

theorem rowBase_eq {row : Nat} (h : row < 2) : rowBase row = some (0x40 * row) := by
  interval_cases row <;> rfl

theorem posAddress_of_inRange {c : Cfg} {row : Nibble} {col : Byte} (hbase : row.toNat < 2) (hrow : row.toNat < c.rows)
    (hcol : col.toNat < c.cols) : posAddress c row col = some (BitVec.ofNat 7 (0x40 * row.toNat + col.toNat)) := by
  have hin : ¬ (c.rows ≤ row.toNat ∨ c.cols ≤ col.toNat) := by omega
  simp [posAddress, hin, rowBase_eq hbase]

/-- Settles O20: on either legal geometry the sum is at most 0x67, so the narrowing to 7 bits loses nothing. -/
theorem posAddressNeverWraps : Obligations.PosAddressNeverWraps := by
  intro c row col hwf hrow hcol
  have hgeometry := geometry_of_wf hwf
  have hbound : 0x40 * row.toNat + col.toNat ≤ 0x67 := by omega
  refine ⟨_, posAddress_of_inRange (by omega) hrow hcol, ?_⟩
  rw [BitVec.toNat_ofNat, Nat.mod_eq_of_lt (by omega)]
  exact ⟨rfl, hbound⟩

end Sys2Proof.Machine
end

section
/-! Enable pulses of a sequence (R118), and the pairs of nibbles on a 4-line bus (R55): the pulses of a sequence are its
writes of 1 to EN, and outside the preamble of INIT they come in pairs up to every place where a step can end. -/

namespace Sys2Proof.Machine

/-- How many micro-steps of a sequence raise EN (R110, R143). -/
def enRises (ps : List Prim) : Nat := ps.count (.setEN true)

theorem enRises_append (ps qs : List Prim) : enRises (ps ++ qs) = enRises ps + enRises qs := List.count_append

theorem enablePulses_append (es fs : List Event) : enablePulses (es ++ fs) = enablePulses es + enablePulses fs :=
  List.count_append

theorem enablePulses_primEvents (p : Prim) (s : State) : enablePulses (primEvents p s) = enRises [p] := by
  cases p <;> simp [enablePulses, primEvents, enRises, List.count_singleton]

/-- The number of enable pulses of a sequence does not depend on the state it runs in. -/
theorem enablePulses_scriptEvents (ps : List Prim) (s : State) : enablePulses (scriptEvents ps s) = enRises ps := by
  induction ps generalizing s with
  | nil => rfl
  | cons p ps ih =>
    rw [scriptEvents, enablePulses_append, enablePulses_primEvents, ih, ← enRises_append, List.singleton_append]

/-- A sequence in whose run EN has risen an even number of times at its end and at every exit test of the poll, the places
where a step can end (R142, R146). -/
inductive Paired : List Prim → Prop
  | nil : Paired []
  | piece {ps qs : List Prim} (plain : ps.all Prim.plain = true) (even : enRises ps % 2 = 0) (next : Paired qs) :
      Paired (ps ++ qs)
  | test (rest : List Xfer) {qs : List Prim} (next : Paired qs) : Paired (.pollTest rest :: qs)

/-- From `s` to `t` an even number of enable pulses occurred. -/
def PulsesEven (s t : State) : Prop := ∃ es, t.trace = s.trace ++ es ∧ enablePulses es % 2 = 0

theorem PulsesEven.of_trace_eq {s t : State} (h : t.trace = s.trace) : PulsesEven s t := ⟨[], by simp [h], rfl⟩

theorem PulsesEven.trans {s t u : State} (h : PulsesEven s t) (h' : PulsesEven t u) : PulsesEven s u := by
  obtain ⟨es, htrace, heven⟩ := h
  obtain ⟨fs, htrace', heven'⟩ := h'
  refine ⟨es ++ fs, by simp [htrace, htrace'], ?_⟩
  rw [enablePulses_append]
  omega

theorem PulsesEven.enablePulses_newEvents {s t : State} (h : PulsesEven s t) : enablePulses (newEvents s t) % 2 = 0 := by
  obtain ⟨es, htrace, heven⟩ := h
  simpa [newEvents, htrace] using heven

theorem runPrims_pulsesEven {ps : List Prim} (h : enRises ps % 2 = 0) (s : State) : PulsesEven s (runPrims ps s) :=
  ⟨_, runPrims_trace ps s, by rwa [enablePulses_scriptEvents]⟩

/-- With nothing out of turn a paired sequence ends after an even number of enable pulses. -/
theorem Paired.pulsesEven {ps : List Prim} (hps : Paired ps) {s t : State} (hcalm : s.upset = none)
    (h : runScript ps s = .next t) : PulsesEven s t := by
  induction hps generalizing s with
  | nil =>
    obtain rfl : s = t := by simpa [runScript] using h
    exact .of_trace_eq rfl
  | piece plain even _ ih =>
    rw [runScript_plain_append plain _ hcalm] at h
    exact (runPrims_pulsesEven even s).trans (ih (runPrims_calm _ hcalm) h)
  | test rest _ ih =>
    rw [runScript_pollTest rest _ hcalm] at h
    split at h
    · obtain rfl : { s with seq := .polling rest } = t := by simpa using h
      exact .of_trace_eq rfl
    · exact (PulsesEven.of_trace_eq (leavePoll_trace s)).trans (ih hcalm h)

/-! ### The sequences of a 4-line bus -/

/-- A byte on 4 lines is two nibbles (R113). -/
theorem enRises_rawByte {c : Cfg} (hfour : c.busWidth = .four) (rs : Bool) (b : Byte) : enRises (rawByte c rs b) = 2 := by
  rw [rawByte, hfour]
  rfl

/-- A status read on 4 lines is two read cycles (R145). -/
theorem enRises_readStatus {c : Cfg} (hfour : c.busWidth = .four) : enRises (readStatus c) = 2 := by
  rw [readStatus, hfour]
  rfl

theorem pollLoop_paired {c : Cfg} (hfour : c.busWidth = .four) (rest : List Xfer) {qs : List Prim} (hqs : Paired qs) :
    Paired (pollLoop c rest ++ qs) := by
  rw [pollLoop, List.append_assoc]
  exact .piece (readStatus_plain c) (by rw [enRises_readStatus hfour]) <| .test rest <|
    .piece (ps := [.setRW false]) rfl rfl hqs

theorem sync_paired {c : Cfg} (hfour : c.busWidth = .four) (rest : List Xfer) {qs : List Prim} (hqs : Paired qs) :
    Paired (sync c rest ++ qs) := by
  unfold sync
  split
  · rw [busyPoll, List.append_assoc]
    exact .piece rfl rfl (pollLoop_paired hfour rest hqs)
  · exact .piece rfl rfl hqs

theorem transfers_paired {c : Cfg} (hfour : c.busWidth = .four) (xs : List Xfer) : Paired (transfers c xs) := by
  induction xs with
  | nil => exact .piece (ps := [.complete .ok]) rfl rfl .nil
  | cons x rest ih =>
    rw [transfers, xfer, List.append_assoc, List.append_assoc]
    exact .piece rfl rfl <| .piece (rawByte_plain c x.rs x.byte) (by rw [enRises_rawByte hfour]) (sync_paired hfour rest ih)

theorem fail_paired (st : Status) : Paired [.complete st] := .piece (ps := [.complete st]) rfl rfl .nil

/-- Only INIT sends lone nibbles (R133). -/
theorem exec_runs_paired {s : State} (hfour : s.cfg.busWidth = .four) {i : Instr} (hi : ∀ n f, i ≠ .init n f) :
    ∃ ps, Paired ps ∧ exec i s = runScript ps s := by
  cases i with
  | init n f => exact absurd rfl (hi n f)
  | pos row col =>
    simp only [exec, execPos]
    split
    · exact ⟨_, fail_paired _, rfl⟩
    · exact ⟨_, transfers_paired hfour _, rfl⟩
  | backlight on =>
    simp only [exec, execBacklight]
    split
    · exact ⟨_, .piece (ps := [.setBL on]) rfl rfl (fail_paired .ok), rfl⟩
    · exact ⟨_, fail_paired _, rfl⟩
  | _ => exact ⟨_, transfers_paired hfour _, rfl⟩

theorem runAccepted_runs_paired {s : State} (hfour : s.cfg.busWidth = .four)
    (hinit : ∀ n f, decode s.opr ≠ .ok (.init n f)) : ∃ ps, Paired ps ∧ runAccepted s = runScript ps s := by
  unfold runAccepted
  split
  · rename_i i hdecode
    exact exec_runs_paired hfour fun n f hi => hinit n f (hi ▸ hdecode)
  · exact ⟨_, fail_paired _, rfl⟩

/-- Settles O52: bytes and status reads are two pulses each on 4 lines, and a step ends before an exit test or after its
whole sequence, never inside such a pair. -/
theorem nibblesComeInPairsOutsideInit : Obligations.NibblesComeInPairsOutsideInit := by
  intro s t hfour hcalm h hinit
  refine PulsesEven.enablePulses_newEvents ?_
  obtain ⟨hrst, _⟩ | ⟨_, _, rfl⟩ | ⟨rest, _, hresume⟩ | ⟨w, ws, hidle, hwords, hrun⟩ := step_next_cases h
  · simp [hcalm] at hrst
  · exact .of_trace_eq rfl
  · exact (pollLoop_paired hfour rest (transfers_paired hfour rest)).pulsesEven (s := clearDone s) hcalm hresume
  · have hdecode : ∀ n f, decode (accept w ws s).opr ≠ .ok (.init n f) :=
      fun n f hd => hinit ⟨w, ws, n, f, hidle, hwords, hd⟩
    obtain ⟨ps, hps, heq⟩ := runAccepted_runs_paired (s := accept w ws s) hfour hdecode
    exact hps.pulsesEven (s := accept w ws s) hcalm (heq ▸ hrun)

end Sys2Proof.Machine
end

section
/-! The operation word decoded and encoded (R80 to R82, R93): which words decode to which operation, the fields of that
operation, and the four decode checks as numbers. -/

namespace Sys2Proof

open Expect

/-- A word decodes to an operation exactly when its fields are that operation's and pass the checks of R93. -/
theorem decode_eq_ok {w : Word} {i : Instr} :
    decode w = .ok i ↔
      (∃ m, resMask (opcField w) = some m ∧ bField w &&& m = 0) ∧ (opcField w ≠ 9 → aField w = 0) ∧
        operation (opcField w) (aField w) (bField w) = some i := by
  unfold decode
  cases hm : resMask (opcField w) with
  | none => simp
  | some m =>
    cases hi : operation (opcField w) (aField w) (bField w) with
    | none => simp
    | some j =>
      simp only [Option.some.injEq, exists_eq_left']
      split
      · rename_i ha
        exact ⟨nofun, fun ⟨_, ha', _⟩ => absurd (ha' ha.1) ha.2⟩
      · rename_i ha
        rw [not_and_not_right] at ha
        split <;> simp_all

/-- Every operation obeys the checks of R93: the eleven lemmas of Laws/PerInstr together. -/
theorem fieldsStatement (i : Instr) : Laws.Fields.Statement i := by
  cases i with
  | clear => exact Laws.Fields.clear
  | home => exact Laws.Fields.home
  | entry dir sh => exact Laws.Fields.entry dir sh
  | display on cur blk => exact Laws.Fields.display on cur blk
  | shift tgt rl => exact Laws.Fields.shift tgt rl
  | init n f => exact Laws.Fields.init n f
  | setcg addr6 => exact Laws.Fields.setcg addr6
  | setdd addr7 => exact Laws.Fields.setdd addr7
  | pos row col => exact Laws.Fields.pos row col
  | write data => exact Laws.Fields.write data
  | backlight on => exact Laws.Fields.backlight on

/-- The operand layout of R82 reads back what the encoder puts into the fields. -/
theorem operation_fields (i : Instr) : operation i.opc i.fieldA i.fieldB = some i := by
  cases i with
  | clear => rfl
  | home => rfl
  | entry dir sh => cases dir <;> cases sh <;> rfl
  | display on cur blk => cases on <;> cases cur <;> cases blk <;> rfl
  | shift tgt rl => cases tgt <;> cases rl <;> rfl
  | init n f => cases n <;> cases f <;> rfl
  | setcg addr6 =>
    have hlow : (addr6.setWidth 8).extractLsb' 0 6 = addr6 := by ext k hk; simp [BitVec.getLsbD_eq_getElem hk]; omega
    exact congrArg (fun a => some (Instr.setcg a)) hlow
  | setdd addr7 =>
    have hlow : (addr7.setWidth 8).extractLsb' 0 7 = addr7 := by ext k hk; simp [BitVec.getLsbD_eq_getElem hk]; omega
    exact congrArg (fun a => some (Instr.setdd a)) hlow
  | pos row col => rfl
  | write data => rfl
  | backlight on => cases on <;> rfl

/-- Settles O1: the fields of an operation's word are the operation's, they pass the checks, and the operand layout reads
them back. -/
theorem everyOperationDecodesFromItsWord : Obligations.EveryOperationDecodesFromItsWord := by
  intro i
  obtain ⟨hopc, hmask, ha⟩ := fieldsStatement i
  rw [decode_eq_ok, hopc]
  refine ⟨hmask, ha, ?_⟩
  rw [encode, aField_mkWord, bField_mkWord]
  exact operation_fields i

theorem opc_of_operation {o : BitVec 4} {a : Nibble} {b : Byte} {i : Instr} (h : operation o a b = some i) :
    i.opc = o := by
  unfold operation at h
  split at h <;> rename_i ho <;> cases h <;> exact BitVec.eq_of_toNat_eq ho.symm

/-- Operand A holds nothing but what the operation says of it: the row of POS, and 0 elsewhere. -/
theorem fieldA_of_operation {a : Nibble} {b : Byte} {i : Instr} (h : operation i.opc a b = some i)
    (ha : i.opc ≠ 9 → a = 0) : i.fieldA = a := by
  cases i with
  | pos row col => cases h; rfl
  | _ => exact (ha (by simp [Instr.opc])).symm

/-- Operand B is put together again from the bits the layout reads, those outside them being 0. -/
theorem fieldB_of_operation {a : Nibble} {b m : Byte} {i : Instr} (h : operation i.opc a b = some i)
    (hm : resMask i.opc = some m) (hb : b &&& m = 0) : i.fieldB = b := by
  cases i with
  | clear | home => clear h; cases hm; revert b; decide
  | pos | write => cases h; rfl
  | _ => cases h; cases hm; revert b; decide

/-- Settles O2: the fields of the operation are those of the word, which is put together from them. -/
theorem decodedWordIsTheEncodingOfItsOperation : Obligations.DecodedWordIsTheEncodingOfItsOperation := by
  intro w i h
  obtain ⟨⟨m, hm, hb⟩, ha, hi⟩ := decode_eq_ok.mp h
  have hopc := opc_of_operation hi
  rw [← hopc] at hm ha hi
  rw [encode, fieldA_of_operation hi ha, fieldB_of_operation hi hm hb, hopc, mkWord_fields]

/-- The two tables of reserved bits, that of the decoder and that of the statements, are the same (R93). -/
theorem resMask_eq (o : BitVec 4) :
    resMask o =
      if 1 ≤ o.toNat ∧ o.toNat ≤ 11 then some (BitVec.ofNat 8 (reservedBits.getD o.toNat 0)) else none := by
  revert o
  decide

/-- Every operation code that is not reserved has its operation (R81). -/
theorem exists_operation {o : BitVec 4} {m : Byte} (hm : resMask o = some m) (a : Nibble) (b : Byte) :
    ∃ i, operation o a b = some i := by
  obtain ⟨hlow, hhigh⟩ : 1 ≤ o.toNat ∧ o.toNat ≤ 11 := by
    by_contra hreserved
    simp [resMask_eq, hreserved] at hm
  unfold operation
  interval_cases o.toNat <;> exact ⟨_, rfl⟩

/-- Only BACKLIGHT can be missing from the operations of a binding (R8). -/
theorem wf_iff_opc (c : Cfg) (i : Instr) : i.wf c = true ↔ (i.opc = 11 → c.hasBacklight = true) := by
  cases i <;> simp [Instr.wf, Instr.opc]

/-- A mask on operand B, as numbers and as bit vectors. -/
theorem bOf_and_eq_zero (w : Word) (r : Nat) : bOf w &&& r = 0 ↔ bField w &&& BitVec.ofNat 8 r = 0 := by
  have hlt : bOf w &&& r < 2 ^ 8 := Nat.and_le_left.trans_lt (Nat.mod_lt _ (by decide))
  have hand : (bField w &&& BitVec.ofNat 8 r).toNat = bOf w &&& r := by
    rw [BitVec.toNat_and, BitVec.toNat_ofNat, bField_toNat, ← Nat.mod_eq_of_lt hlt, Nat.and_mod_two_pow, bOf]
    simp
  rw [BitVec.toNat_eq, hand]
  rfl

/-- The checks on the word as a number are those on its fields, and the BL line (R93). -/
theorem legal_iff {c : Cfg} {w : Word} :
    Legal c w ↔
      (∃ m, resMask (opcField w) = some m ∧ bField w &&& m = 0) ∧ (opcField w = 11 → c.hasBacklight = true) ∧
        (opcField w ≠ 9 → aField w = 0) := by
  have hopc : opcOf w = (opcField w).toNat := (opcField_toNat w).symm
  have hnine : opcOf w = 9 ↔ opcField w = 9 := by rw [hopc, BitVec.toNat_eq]; rfl
  have heleven : opcOf w = 11 ↔ opcField w = 11 := by rw [hopc, BitVec.toNat_eq]; rfl
  have ha : aOf w = 0 ↔ aField w = 0 := by rw [BitVec.toNat_eq, aField_toNat]; rfl
  rw [Legal, ne_eq, hnine, heleven, ha, bOf_and_eq_zero, resMask_eq, hopc]
  by_cases hrange : 1 ≤ (opcField w).toNat ∧ (opcField w).toNat ≤ 11
  · simp [hrange, and_comm, and_left_comm]
  · simp [hrange]

/-- Settles O3: the word of a code that is not reserved has its operation, and the other checks are the decoder's and that of
the BL line. -/
theorem legalWordsAreExactlyTheDecodedOnes : Obligations.LegalWordsAreExactlyTheDecodedOnes := by
  intro c w
  simp only [legal_iff, decode_eq_ok, wf_iff_opc]
  constructor
  · rintro ⟨hmask, hline, ha⟩
    have ⟨m, hm, _⟩ := hmask
    obtain ⟨i, hi⟩ := exists_operation hm (aField w) (bField w)
    exact ⟨i, ⟨hmask, ha, hi⟩, opc_of_operation hi ▸ hline⟩
  · rintro ⟨i, ⟨hmask, ha, hi⟩, hline⟩
    exact ⟨hmask, opc_of_operation hi ▸ hline, ha⟩

/-- Settles O4: the written words are those of the encoder. -/
theorem writtenWordsDecode : Obligations.WrittenWordsDecode := by
  have h := everyOperationDecodesFromItsWord
  exact ⟨h .clear, h .home, h (.entry true false), h (.display true false false), h (.shift true false),
    h (.init true false), h (.setcg 8), h (.setdd 0x40), h (.pos 1 3), h (.write 0x41), h (.backlight true)⟩

end Sys2Proof
end

section
/-! The command bytes of the operations (R83 to R92): the class a byte selects, and the byte as the selecting bit with
operand B; and the words that are rejected (R93, R182, R186). -/

namespace Sys2Proof.Machine

open Expect

/-! ### Classes of command bytes -/

/-- The most significant 1 bit selects the class (R83). -/
theorem classOf_of_bounds {b : Byte} {k : Nat} (hlow : 2 ^ k ≤ b.toNat) (hhigh : b.toNat < 2 ^ (k + 1)) :
    classOf b = classOfBit k := by
  have hne : b.toNat ≠ 0 := by have := Nat.two_pow_pos k; omega
  have hb : b ≠ 0 := fun h => hne (by rw [h]; rfl)
  rw [classOf, if_neg hb, (Nat.log2_eq_iff hne).mpr ⟨hlow, hhigh⟩]

/-- The selecting bit with an operand, as a number (R92). -/
theorem toNat_selecting {k : Nat} (hk : k < 8) (b : Byte) : (BitVec.twoPow 8 k ||| b).toNat = 2 ^ k ||| b.toNat := by
  rw [BitVec.toNat_or, BitVec.toNat_twoPow_of_lt hk]

/-- The selecting bit of a class with an operand below it (R92) is a byte of that class. -/
theorem classOf_selecting {b : Byte} {k : Nat} (hk : k < 8) (hb : b.toNat < 2 ^ k) :
    classOf (BitVec.twoPow 8 k ||| b) = classOfBit k := by
  apply classOf_of_bounds <;> rw [toNat_selecting hk]
  · exact Nat.left_le_or
  · exact Nat.or_lt_two_pow (by omega) (by omega)

/-! ### Command bytes as selecting bit and operand B -/

theorem entryByte_eq (dir sh : Bool) : entryByte dir sh = BitVec.twoPow 8 2 ||| (Instr.entry dir sh).fieldB :=
  BitVec.or_assoc _ _ _

theorem displayByte_eq (on cur blk : Bool) :
    displayByte on cur blk = BitVec.twoPow 8 3 ||| (Instr.display on cur blk).fieldB := by
  rw [displayByte, BitVec.or_assoc, BitVec.or_assoc, Instr.fieldB, BitVec.or_assoc]
  rfl

theorem shiftByte_eq (tgt rl : Bool) : shiftByte tgt rl = BitVec.twoPow 8 4 ||| (Instr.shift tgt rl).fieldB :=
  BitVec.or_assoc _ _ _

/-- For the function set the bus width stands between the selecting bit and operand B (R89). -/
theorem functionSet_eq (w : BusWidth) (n f : Bool) :
    Machine.functionSet w n f = BitVec.twoPow 8 5 ||| (bitByte (dl w) <<< 4 ||| (Instr.init n f).fieldB) := by
  rw [Machine.functionSet, BitVec.or_assoc, BitVec.or_assoc]
  rfl

/-- The operation codes of R92. -/
def selectingCodes : List Nat := [1, 2, 3, 4, 5, 7, 8]

theorem selectingCodes_bound : ∀ k ∈ selectingCodes, k - 1 < 8 := by decide

/-- Operand B of the operations of R92 is below the selecting bit. -/
theorem fieldB_lt_selecting {i : Instr} (hi : i.opc.toNat ∈ selectingCodes) : i.fieldB.toNat < 2 ^ (i.opc.toNat - 1) := by
  cases i with
  | clear => decide
  | home => decide
  | entry dir sh => cases dir <;> cases sh <;> decide
  | display on cur blk => cases on <;> cases cur <;> cases blk <;> decide
  | shift tgt rl => cases tgt <;> cases rl <;> decide
  | setcg addr6 =>
    rw [Instr.fieldB, BitVec.toNat_setWidth_of_le (by decide)]
    exact addr6.isLt
  | setdd addr7 =>
    rw [Instr.fieldB, BitVec.toNat_setWidth_of_le (by decide)]
    exact addr7.isLt
  | _ => simp [selectingCodes, Instr.opc] at hi

/-- An operation of R92 is the transfer of one command byte, the selecting bit with operand B. -/
theorem exec_of_selecting {i : Instr} (hi : i.opc.toNat ∈ selectingCodes) (s : State) :
    ∃ t, exec i s = runTransfers [cmd (BitVec.twoPow 8 (i.opc.toNat - 1) ||| i.fieldB) t] s := by
  cases i with
  | clear => exact ⟨.long, rfl⟩
  | home => exact ⟨.long, rfl⟩
  | entry dir sh => exact ⟨.short, by rw [exec, execEntry, entryByte_eq]; rfl⟩
  | display on cur blk => exact ⟨.short, by rw [exec, execDisplay, displayByte_eq]; rfl⟩
  | shift tgt rl => exact ⟨.short, by rw [exec, execShift, shiftByte_eq]; rfl⟩
  | setcg addr6 => exact ⟨.short, rfl⟩
  | setdd addr7 => exact ⟨.short, rfl⟩
  | _ => simp [selectingCodes, Instr.opc] at hi

/-- Settles O6: the eight combinations, each evaluated. -/
theorem functionSetTable : Obligations.FunctionSetTable := ⟨rfl, rfl, rfl, rfl, rfl, rfl, rfl, rfl⟩

/-- The command byte of an operation of R92 is of the class that its operation code selects. -/
theorem classOf_of_selecting {i : Instr} (hi : i.opc.toNat ∈ selectingCodes) :
    classOf (BitVec.twoPow 8 (i.opc.toNat - 1) ||| i.fieldB) = classOfBit (i.opc.toNat - 1) :=
  classOf_selecting (selectingCodes_bound _ hi) (fieldB_lt_selecting hi)

/-- Settles O7: every command byte is the selecting bit of its class with its options or its address below it. -/
theorem commandClassOfEachOperation : Obligations.CommandClassOfEachOperation := by
  refine ⟨?_, ?_, fun dir sh => ?_, fun on cur blk => ?_, fun tgt rl => ?_, fun w n f => ?_, fun a => ?_, fun a => ?_, ?_⟩
  · exact classOf_of_selecting (i := .clear) (by decide)
  · exact classOf_of_selecting (i := .home) (by decide)
  · rw [entryByte_eq]
    exact classOf_of_selecting (i := .entry dir sh) (List.elem_iff.mp rfl)
  · rw [displayByte_eq]
    exact classOf_of_selecting (i := .display on cur blk) (List.elem_iff.mp rfl)
  · rw [shiftByte_eq]
    exact classOf_of_selecting (i := .shift tgt rl) (List.elem_iff.mp rfl)
  · rw [functionSet_eq]
    exact classOf_selecting (k := 5) (by decide) (by cases w <;> cases n <;> cases f <;> decide)
  · exact classOf_of_selecting (i := .setcg a) (List.elem_iff.mp rfl)
  · exact classOf_of_selecting (i := .setdd a) (List.elem_iff.mp rfl)
  · rfl

/-! ### The byte that is sent -/

theorem opcOf_encode (i : Instr) : opcOf (encode i) = i.opc.toNat := by
  rw [opcOf, ← opcField_toNat, encode, opcField_mkWord]

theorem bOf_encode (i : Instr) : bOf (encode i) = i.fieldB.toNat := by
  rw [bOf, ← bField_toNat, encode, bField_mkWord]

/-- A write part with its fixed delay leaves its byte in `BYTE` (log 18) and its RS on the pin (R114). -/
theorem writePart_fixed_byte (c : Cfg) (x : Xfer) (s : State) :
    (runPrims ([.loadTier x.tier] ++ rawByte c x.rs x.byte ++ [.requestTier, .await]) s).byte = x.byte ∧
    (runPrims ([.loadTier x.tier] ++ rawByte c x.rs x.byte ++ [.requestTier, .await]) s).pins.rs = x.rs := by
  cases hw : c.busWidth <;> simp [rawByte, hw, raw8, raw4, pulse, delay, doPrim]

/-- On a binding with fixed delays an operation that is one transfer completes with its byte in `BYTE` and its RS on the pin. -/
theorem runTransfers_fixed {s : State} (hu : s.upset = none) (hc : s.cfg.canRead = false) (x : Xfer) :
    ∃ t, runTransfers [x] s = .next t ∧ t.pins.rs = x.rs ∧ t.byte = x.byte := by
  obtain ⟨hbyte, hrs⟩ := writePart_fixed_byte s.cfg x s
  refine ⟨complete .ok _, ?_, hrs, hbyte⟩
  rw [runTransfers, transfers, runScript_xfer_fixed hc _ _ _ hu, transfers, runScript_plain_cons rfl _ (runPrims_calm _ hu)]
  rfl

/-- Settles O5: an operation of R92 is one transfer of the selecting bit with operand B, which is below that bit. -/
theorem commandByteIsSelectingBitWithOperand : Obligations.CommandByteIsSelectingBitWithOperand := by
  intro s i hcalm hc hi
  rw [opcOf_encode] at hi ⊢
  rw [bOf_encode]
  have hlt := fieldB_lt_selecting hi
  obtain ⟨tier, hexec⟩ := exec_of_selecting hi s
  obtain ⟨t, hrun, hrs, hbyte⟩ := runTransfers_fixed hcalm hc (cmd (BitVec.twoPow 8 (i.opc.toNat - 1) ||| i.fieldB) tier)
  refine ⟨t, hexec.trans hrun, hrs, ?_, hlt⟩
  rw [hbyte]
  exact toNat_selecting (selectingCodes_bound _ hi) _

/-! ### Rejected words -/

/-- An error completion (R186). -/
theorem failWith_of_calm {s : State} (hu : s.upset = none) (st : Status) : failWith st s = .next (complete st s) := by
  rw [failWith, runScript_plain_cons rfl _ hu]
  rfl

/-- An operation that the binding has not is BACKLIGHT without its line (R8, R161). -/
theorem exec_of_not_wf {i : Instr} {s : State} (h : ¬ i.wf s.cfg = true) : exec i s = failWith .illegalOperation s := by
  cases i with
  | backlight on => exact if_neg h
  | _ => exact absurd rfl h

/-- A word that is no operation of the binding completes with `ILLEGAL_OPERATION` (R93, R182). -/
theorem runAccepted_of_not_legal {s : State} (h : ¬ Legal s.cfg s.opr) :
    runAccepted s = failWith .illegalOperation s := by
  rw [legalWordsAreExactlyTheDecodedOnes] at h
  unfold runAccepted
  split
  · rename_i i hdecode
    exact exec_of_not_wf fun hwf => h ⟨i, hdecode, hwf⟩
  · rfl

/-- Idle and with nothing out of turn, a step runs the host's next word (R33). -/
theorem step_of_idle {s : State} {w : Word} {ws : List Word} (hidle : s.seq = .idle) (hcalm : s.upset = none)
    (hwords : s.words = w :: ws) : step s = runAccepted (accept w ws s) := by
  simp [step_of_calm hcalm, advance, hidle, hwords]

/-- Settles O10: the rejected word is accepted into `OPR` and completes with its error status. -/
theorem illegalWordCompletesWithNoEffect : Obligations.IllegalWordCompletesWithNoEffect := by
  intro s w hidle hcalm hlegal ws
  have hstep := step_of_idle (s := { s with host := w :: ws }) hidle hcalm (words_of_host rfl)
  refine hstep.trans ((runAccepted_of_not_legal hlegal).trans ((failWith_of_calm (s := accept w ws _) hcalm _).trans ?_))
  simp [complete, accept, hidle]

end Sys2Proof.Machine
end

section
/-! What a step makes the device latch (R94, R133, R55): whole bytes whose command bytes are those of the list, and on 4
lines the lone nibbles of the preamble of INIT. -/

namespace Sys2Proof.Machine

open Expect

/-! ### The listed command bytes -/

theorem emittable_entry (w : BusWidth) (dir sh : Bool) : Emittable w (entryByte dir sh) :=
  .inr (.inr (.inl (by cases dir <;> cases sh <;> decide)))

theorem emittable_display (w : BusWidth) (on cur blk : Bool) : Emittable w (displayByte on cur blk) :=
  .inr (.inr (.inl (by cases on <;> cases cur <;> cases blk <;> decide)))

theorem emittable_shift (w : BusWidth) (tgt rl : Bool) : Emittable w (shiftByte tgt rl) := by
  cases tgt <;> cases rl <;> simp [Emittable, shiftByte, bitByte]

theorem emittable_functionSet (w : BusWidth) (n f : Bool) : Emittable w (Machine.functionSet w n f) := by
  cases w <;> cases n <;> cases f <;> simp [Emittable, Machine.functionSet, dl, bitByte]

/-- From 0x40 on every byte is an address command (R90, R91). -/
theorem emittable_of_ge {b : Byte} (w : BusWidth) (h : 0x40 ≤ b.toNat) : Emittable w b :=
  .inr (.inr (.inr (.inr (.inr (.inr (.inr (.inr h)))))))

theorem emittable_cg (w : BusWidth) (addr6 : BitVec 6) : Emittable w (cgByte addr6) :=
  emittable_of_ge w (by rw [cgByte, BitVec.toNat_or]; exact Nat.left_le_or)

theorem emittable_dd (w : BusWidth) (addr7 : BitVec 7) : Emittable w (ddByte addr7) := by
  have h : 0x80 ≤ (ddByte addr7).toNat := by rw [ddByte, BitVec.toNat_or]; exact Nat.left_le_or
  exact emittable_of_ge w (by omega)

/-- Transfers whose command bytes are of the list (R94). -/
def Listed (w : BusWidth) (xs : List Xfer) : Prop := ∀ x ∈ xs, x.rs = false → Emittable w x.byte

theorem listed_cons {w : BusWidth} {x : Xfer} {xs : List Xfer} :
    Listed w (x :: xs) ↔ (x.rs = false → Emittable w x.byte) ∧ Listed w xs := List.forall_mem_cons

theorem listed_cmd {w : BusWidth} {b : Byte} (h : Emittable w b) (t : Tier) : Listed w [cmd b t] :=
  listed_cons.mpr ⟨fun _ => h, nofun⟩

theorem listed_data (w : BusWidth) (b : Byte) : Listed w [data b] := listed_cons.mpr ⟨nofun, nofun⟩

theorem listed_bringUp (w : BusWidth) : Listed w bringUp := by
  simp [Listed, bringUp, cmd, Emittable]

/-! ### What is latched -/

/-- From `s` to `t` the device latched the entries `lone`, then whole bytes, the command bytes among them of the list. -/
def Sends (c : Cfg) (lone : List (Bool × Byte)) (s t : State) : Prop :=
  ∃ bytes : List (Bool × Byte), t.latched = s.latched ++ lone ++ bytes.flatMap (fun x => latches c x.1 x.2) ∧
    ∀ b : Byte, (false, b) ∈ bytes → Emittable c.busWidth b

theorem Sends.of_latched {c : Cfg} {lone : List (Bool × Byte)} {s t : State} (h : t.latched = s.latched ++ lone) :
    Sends c lone s t := ⟨[], by simp [h], nofun⟩

theorem Sends.of_latched_eq {c : Cfg} {s t : State} (h : t.latched = s.latched) : Sends c [] s t :=
  .of_latched (by simp [h])

theorem Sends.trans {c : Cfg} {lone : List (Bool × Byte)} {s t u : State} (h : Sends c lone s t) (h' : Sends c [] t u) :
    Sends c lone s u := by
  obtain ⟨bs, hlatched, hbs⟩ := h
  obtain ⟨bs', hlatched', hbs'⟩ := h'
  refine ⟨bs ++ bs', by simp [hlatched, hlatched'], fun b hb => ?_⟩
  exact (List.mem_append.mp hb).elim (hbs b) (hbs' b)

variable {s₀ s t : State}

theorem highNibble_setWidth (b : Byte) : (highNibble b).setWidth 8 = high b := by
  revert b
  decide

theorem lowNibble_setWidth (b : Byte) : (lowNibble b).setWidth 8 = low b := by
  revert b
  decide

/-- A byte is latched whole, on 4 lines as its two halves (R112, R113). -/
theorem rawByte_sends (hs : s₀.Between s) (hu : s.upset = none) {rs : Bool} {b : Byte}
    (hb : rs = false → Emittable s₀.cfg.busWidth b) : Sends s₀.cfg [] s (runPrims (rawByte s₀.cfg rs b) s) := by
  refine ⟨[(rs, b)], ?_, by simp_all⟩
  rw [← hs.cfg]
  cases hw : s.cfg.busWidth with
  | eight => simp [rawByte, hw, raw8_effect rs b hs.enLow hs.rwLow hu, latches]
  | four => simp [rawByte, hw, raw4_effect rs b hs.enLow hs.rwLow hu, latches, highNibble_setWidth, lowNibble_setWidth]

/-- The write part of a transfer, its tier latched (R114). -/
theorem writePart_sends (hs : s₀.Between s) (hu : s.upset = none) {x : Xfer}
    (hx : x.rs = false → Emittable s₀.cfg.busWidth x.byte) :
    Sends s₀.cfg [] s (runPrims ([.loadTier x.tier] ++ rawByte s₀.cfg x.rs x.byte) s) := by
  have hloaded : s₀.Between (doPrim (.loadTier x.tier) s) := ⟨hs.cfg, hs.enLow, hs.rwLow, hs.noRequest, hs.noFlag⟩
  exact rawByte_sends hloaded hu hx

/-- In read direction nothing is latched (R62). -/
theorem readStatus_latched (hs : s₀.InLoop s) (hu : s.upset = none) :
    (runPrims (readStatus s₀.cfg) s).latched = s.latched := by
  rw [← hs.cfg]
  cases hw : s.cfg.busWidth with
  | eight => rw [readStatus_eight_effect hw hs.enLow hs.rwHigh hu]; simp
  | four => rw [readStatus_four_effect hw hs.enLow hs.rwHigh hu]; simp

/-- A pass through the loop of the poll latches nothing before what follows it (R142). -/
theorem pollLoop_sends {rest : List Xfer} {qs : List Prim} (hs : s₀.InLoop s) (hu : s.upset = none)
    (hqs : ∀ u, s₀.Between u → u.upset = none → runScript qs u = .next t → Sends s₀.cfg [] u t)
    (h : runScript (pollLoop s₀.cfg rest ++ qs) s = .next t) : Sends s₀.cfg [] s t := by
  have hread := readStatus_latched hs hu
  have hcalm := runPrims_calm (readStatus s₀.cfg) hu
  rw [runScript_pollLoop _ _ _ hu] at h
  split at h
  · obtain rfl := Host.Outcome.next.inj h
    exact .of_latched_eq hread
  · have hleft := (readStatus_inLoop s₀.cfg hs).left
    exact (Sends.of_latched_eq (by simpa using hread)).trans (hqs _ hleft (by simp [hcalm]) h)

theorem complete_sends {st : Status} (hu : s.upset = none) (h : failWith st s = .next t) : Sends s₀.cfg [] s t := by
  obtain rfl := Host.Outcome.next.inj ((failWith_of_calm hu st).symm.trans h)
  exact .of_latched_eq rfl

/-- Transfers of listed command bytes and of data bytes, up to the busy read or the completion that ends the step. -/
theorem transfers_send {xs : List Xfer} (hs : s₀.Between s) (hu : s.upset = none) (hxs : Listed s₀.cfg.busWidth xs)
    (h : runScript (transfers s₀.cfg xs) s = .next t) : Sends s₀.cfg [] s t := by
  induction xs generalizing s with
  | nil => exact complete_sends hu h
  | cons x rest ih =>
    obtain ⟨hx, hrest⟩ := listed_cons.mp hxs
    have hwrite := writePart_sends hs hu hx
    have hwritten := writePart_between s₀.cfg x hs
    have hcalm := runPrims_calm ([.loadTier x.tier] ++ rawByte s₀.cfg x.rs x.byte) hu
    refine hwrite.trans ?_
    cases hc : s₀.cfg.canRead with
    | false =>
      rw [transfers, runScript_xfer_fixed hc _ _ _ hu, runPrims_append] at h
      have hdelay := ih (tierDelay_between hwritten) (runPrims_calm _ hcalm) hrest h
      exact (Sends.of_latched_eq rfl).trans hdelay
    | true =>
      rw [transfers, runScript_xfer_poll hc _ _ _ hu, runPrims_append] at h
      have hpoll := pollLoop_sends (hwritten.inLoop hc) (runPrims_calm _ hcalm)
        (fun u hu hcalm h => ih hu hcalm hrest h) h
      exact (Sends.of_latched_eq rfl).trans hpoll

/-! ### INIT -/

/-- The preamble on 8 lines is three whole bytes (R132). -/
theorem preamble8_sends (hs : s₀.Between s) (hw : s₀.cfg.busWidth = .eight) {fs : Byte}
    (hfs : Emittable .eight fs) : Sends s₀.cfg [] s (runPrims (preamble8 s₀.cfg fs) s) := by
  refine ⟨[(false, fs), (false, fs), (false, fs)], ?_, by simp [hw, hfs]⟩
  simp [preamble8, raw8, pulse, delay, doPrim, latchedAt, forcedLatch, latches, hw, hs.rwLow]

/-- The three lone nibbles of the preamble on 4 lines (R133). -/
def loneNibbles : List (Bool × Byte) := [(false, 0x2), (false, 0x2), (false, 0x2)]

theorem preamble4_sends (hs : s₀.Between s) (n f : Bool) :
    Sends s₀.cfg loneNibbles s (runPrims (preamble4 s₀.cfg (Machine.functionSet .four n f)) s) := by
  have hhigh : highNibble (Machine.functionSet .four n f) = 2 := by cases n <;> cases f <;> rfl
  apply Sends.of_latched
  simp [preamble4, hhigh, rawNib, pulse, delay, doPrim, latchedAt, forcedLatch, lowNibble, loneNibbles, hs.rwLow]

theorem execInit_eight_sends (hs : s₀.Between s) (hu : s.upset = none) (hw : s₀.cfg.busWidth = .eight) {n f : Bool}
    (h : execInit n f s = .next t) : Sends s₀.cfg [] s t := by
  simp only [execInit, hs.cfg, hw] at h
  rw [runScript_plain_append (preamble8_plain _ _) _ hu] at h
  have hpre := preamble8_sends hs hw (emittable_functionSet .eight n f)
  exact hpre.trans (transfers_send (preamble8_between _ _ hs) (runPrims_calm _ hu) (listed_bringUp _) h)

theorem execInit_four_sends (hs : s₀.Between s) (hu : s.upset = none) (hw : s₀.cfg.busWidth = .four) {n f : Bool}
    (h : execInit n f s = .next t) : Sends s₀.cfg loneNibbles s t := by
  simp only [execInit, hs.cfg, hw] at h
  rw [runScript_plain_append (preamble4_plain _ _) _ hu] at h
  have hlisted : Listed s₀.cfg.busWidth (cmd (Machine.functionSet .four n f) .short :: bringUp) :=
    listed_cons.mpr ⟨fun _ => hw ▸ emittable_functionSet .four n f, listed_bringUp _⟩
  exact (preamble4_sends hs n f).trans (transfers_send (preamble4_between _ _ hs) (runPrims_calm _ hu) hlisted h)

/-! ### Operations and steps -/

theorem runTransfers_sends {xs : List Xfer} (hs : s₀.Between s) (hu : s.upset = none) (hxs : Listed s₀.cfg.busWidth xs)
    (h : runTransfers xs s = .next t) : Sends s₀.cfg [] s t := by
  rw [runTransfers, hs.cfg] at h
  exact transfers_send hs hu hxs h

/-- Only INIT on 4 lines sends lone nibbles (R133). -/
theorem exec_sends {i : Instr} (hs : s₀.Between s) (hu : s.upset = none)
    (hi : s₀.cfg.busWidth = .four → ∀ n f, i ≠ .init n f) (h : exec i s = .next t) : Sends s₀.cfg [] s t := by
  cases i with
  | clear => exact runTransfers_sends hs hu (listed_cmd (.inl rfl) _) h
  | home => exact runTransfers_sends hs hu (listed_cmd (.inr (.inl rfl)) _) h
  | entry dir sh => exact runTransfers_sends hs hu (listed_cmd (emittable_entry _ _ _) _) h
  | display on cur blk => exact runTransfers_sends hs hu (listed_cmd (emittable_display _ _ _ _) _) h
  | shift tgt rl => exact runTransfers_sends hs hu (listed_cmd (emittable_shift _ _ _) _) h
  | setcg addr6 => exact runTransfers_sends hs hu (listed_cmd (emittable_cg _ _) _) h
  | setdd addr7 => exact runTransfers_sends hs hu (listed_cmd (emittable_dd _ _) _) h
  | write b => exact runTransfers_sends hs hu (listed_data _ _) h
  | init n f =>
    cases hw : s₀.cfg.busWidth with
    | eight => exact execInit_eight_sends hs hu hw h
    | four => exact absurd rfl (hi hw n f)
  | pos row col =>
    simp only [exec, execPos] at h
    split at h
    · exact complete_sends hu h
    · exact runTransfers_sends hs hu (listed_cmd (emittable_dd _ _) _) h
  | backlight on =>
    simp only [exec, execBacklight] at h
    split at h
    · rw [runScript_plain_cons rfl _ hu] at h
      have hlit : Sends s₀.cfg [] s (doPrim (.setBL on) s) := .of_latched_eq rfl
      exact hlit.trans (complete_sends (by simp [doPrim, hu]) h)
    · exact complete_sends hu h

/-- The host's next word being an INIT is what `AcceptsInit` says of an idle state. -/
theorem acceptsInit_iff {w : Word} {ws : List Word} (hidle : s.seq = .idle) (hwords : s.words = w :: ws) :
    AcceptsInit s ↔ ∃ n f, decode w = .ok (.init n f) := by
  simp [AcceptsInit, hidle, hwords]

/-- The step that accepts a word: with lone nibbles for an INIT on 4 lines, and without for everything else. -/
theorem runAccepted_sends (hs : s₀.Between s) (hu : s.upset = none) (h : runAccepted s = .next t) :
    (s₀.cfg.busWidth = .four ∧ (∃ n f, decode s.opr = .ok (.init n f)) ∧ Sends s₀.cfg loneNibbles s t) ∨
    (¬ (s₀.cfg.busWidth = .four ∧ ∃ n f, decode s.opr = .ok (.init n f)) ∧ Sends s₀.cfg [] s t) := by
  unfold runAccepted at h
  cases hdecode : decode s.opr with
  | error e =>
    rw [hdecode] at h
    exact .inr ⟨by simp, complete_sends hu h⟩
  | ok i =>
    rw [hdecode] at h
    by_cases hinit : s₀.cfg.busWidth = .four ∧ ∃ n f, i = .init n f
    · obtain ⟨hw, n, f, rfl⟩ := hinit
      exact .inl ⟨hw, ⟨n, f, rfl⟩, execInit_four_sends hs hu hw h⟩
    · refine .inr ⟨by simpa using hinit, exec_sends hs hu (fun hw n f hi => hinit ⟨hw, n, f, hi⟩) h⟩

/-- A step latches lone nibbles exactly when it accepts an INIT on 4 lines, and whole bytes besides. -/
theorem step_sends (hinv : s.Inv) (hcalm : s.upset = none) (h : step s = .next t) :
    (s.cfg.busWidth = .four ∧ AcceptsInit s ∧ Sends s.cfg loneNibbles s t) ∨
    (¬ (s.cfg.busWidth = .four ∧ AcceptsInit s) ∧ Sends s.cfg [] s t) := by
  obtain ⟨hrst, _⟩ | ⟨_, hwords, rfl⟩ | ⟨rest, hseq, hresume⟩ | ⟨w, ws, hidle, hwords, hrun⟩ := step_next_cases h
  · simp [hcalm] at hrst
  · exact .inr ⟨by simp [AcceptsInit, hwords], .of_latched_eq rfl⟩
  · obtain ⟨hrw, hrs, hread, hrest⟩ := hinv.pollReads rest hseq
    have hs : s.InLoop (clearDone s) := ⟨rfl, hrs, hinv.enLow, hrw, hinv.noRequest, hread⟩
    have hlisted : Listed s.cfg.busWidth rest := fun x hx => listed_bringUp _ x (hrest.subset hx)
    have hpoll := pollLoop_sends hs hcalm (fun u hu hcalm h => transfers_send hu hcalm hlisted h) hresume
    exact .inr ⟨by simp [AcceptsInit, hseq], hpoll⟩
  · have hs : s.Between (accept w ws s) :=
      ⟨rfl, hinv.enLow, hinv.idleWrites hidle, hinv.noRequest, fun hf => hf.idle hidle⟩
    rw [acceptsInit_iff hidle hwords]
    have hsent := runAccepted_sends hs hcalm hrun
    rwa [accept_opr] at hsent

/-- Settles O44: the lone nibbles and the whole bytes are those that the step sends. -/
theorem onlyListedCommandBytesAreSent : Obligations.OnlyListedCommandBytesAreSent := by
  intro s t hinv hcalm h
  obtain ⟨hw, hinit, bytes, hlatched, hlisted⟩ | ⟨hnone, bytes, hlatched, hlisted⟩ := step_sends hinv hcalm h
  · exact ⟨loneNibbles, bytes, hlatched, hlisted, fun _ => rfl, fun hn => absurd ⟨hw, hinit⟩ hn⟩
  · exact ⟨[], bytes, hlatched, hlisted, fun hi => absurd hi hnone, fun _ => rfl⟩

end Sys2Proof.Machine
end

section
/-! The discipline of the pins while EN is high (R23, R119): every procedure of the transfer engine and of the status read
begins and ends with EN low, so each sequence is disciplined, and with it every part of it at which a step can end. -/

namespace Sys2Proof.Machine

/-- Where EN stands after a trace, or none where an event of it may not occur (R119, R110, R143). -/
def strobeAfter (c : Cfg) : Pins → Strobe → List Event → Option Strobe
  | _, st, [] => some st
  | p, st, e :: es => (st.next c p e).bind fun st' => strobeAfter c (p.after e) st' es

theorem disciplined_eq_isSome (c : Cfg) (p : Pins) (st : Strobe) (es : List Event) :
    disciplined c p st es = (strobeAfter c p st es).isSome := by
  induction es generalizing p st with
  | nil => rfl
  | cons e es ih => cases h : st.next c p e <;> simp [disciplined, strobeAfter, h, ih]

theorem strobeAfter_append (c : Cfg) (p : Pins) (st : Strobe) (es fs : List Event) :
    strobeAfter c p st (es ++ fs) = (strobeAfter c p st es).bind fun st' => strobeAfter c (p.afterAll es) st' fs := by
  induction es generalizing p st with
  | nil => rfl
  | cons e es ih => cases h : st.next c p e <;> simp [strobeAfter, h, ih, Pins.afterAll]

/-- The first part of a disciplined trace is disciplined. -/
theorem disciplined_of_append {c : Cfg} {p : Pins} {st : Strobe} {es fs : List Event}
    (h : disciplined c p st (es ++ fs) = true) : disciplined c p st es = true := by
  rw [disciplined_eq_isSome, strobeAfter_append] at h
  rw [disciplined_eq_isSome]
  exact Option.isSome_of_isSome_bind h

theorem scriptEvents_append (ps qs : List Prim) (s : State) :
    scriptEvents (ps ++ qs) s = scriptEvents ps s ++ scriptEvents qs (runPrims ps s) := by
  induction ps generalizing s with
  | nil => rfl
  | cons p ps ih => simp [scriptEvents, ih]

/-- Begun with EN low and RW at `rw`, in whatever state, the sequence is disciplined (R119) and ends with EN low and RW at
`rw'`. -/
def Strobed (c : Cfg) (rw rw' : Bool) (ps : List Prim) : Prop :=
  ∀ s : State, s.pins.rw = rw →
    strobeAfter c s.pins .low (scriptEvents ps s) = some .low ∧ (runPrims ps s).pins.rw = rw'

section
variable {c : Cfg} {a b d : Bool} {ps qs : List Prim}

theorem Strobed.append (hps : Strobed c a b ps) (hqs : Strobed c b d qs) : Strobed c a d (ps ++ qs) := by
  intro s hs
  obtain ⟨hstrobe, hrw⟩ := hps s hs
  obtain ⟨hstrobe', hrw'⟩ := hqs _ hrw
  rw [runPrims_pins] at hstrobe'
  refine ⟨?_, runPrims_append ps qs s ▸ hrw'⟩
  rw [scriptEvents_append, strobeAfter_append, hstrobe]
  exact hstrobe'

/-- A strobed sequence is disciplined up to every place in it. -/
theorem Strobed.disciplined_of_prefix {pre : List Prim} {s : State} (h : Strobed c a b ps) (hs : s.pins.rw = a)
    (hpre : pre <+: ps) : disciplined c s.pins .low (scriptEvents pre s) = true := by
  obtain ⟨post, rfl⟩ := hpre
  obtain ⟨hstrobe, _⟩ := h s hs
  apply disciplined_of_append (fs := scriptEvents post (runPrims pre s))
  rw [← scriptEvents_append, disciplined_eq_isSome, hstrobe]
  rfl

/-! ### The pieces of a sequence -/

/-- A micro-step that neither writes EN or RW nor samples the lines: where EN is low it may stand anywhere. -/
def Prim.offStrobe : Prim → Bool
  | .setEN _ => false
  | .setRW _ => false
  | .sampleByte => false
  | .sampleHigh => false
  | .sampleLow => false
  | .loadByte _ => true
  | .loadTier _ => true
  | .setRS _ => true
  | .setBL _ => true
  | .driveByte => true
  | .driveHigh => true
  | .driveLow => true
  | .request _ => true
  | .requestTier => true
  | .await => true
  | .pollTest _ => true
  | .complete _ => true

theorem strobed_nil (c : Cfg) (rw : Bool) : Strobed c rw rw [] := fun _ hs => ⟨rfl, hs⟩

theorem strobed_prim {p : Prim} (c : Cfg) (rw : Bool) (hp : p.offStrobe = true) : Strobed c rw rw [p] := by
  intro s hs
  cases p with
  | setEN b => simp [Prim.offStrobe] at hp
  | setRW b => simp [Prim.offStrobe] at hp
  | sampleByte => simp [Prim.offStrobe] at hp
  | sampleHigh => simp [Prim.offStrobe] at hp
  | sampleLow => simp [Prim.offStrobe] at hp
  | _ => simp [scriptEvents, primEvents, strobeAfter, Strobe.next, doPrim, hs]

theorem strobed_of_offStrobe (c : Cfg) (rw : Bool) (hps : ps.all Prim.offStrobe = true) : Strobed c rw rw ps := by
  induction ps with
  | nil => exact strobed_nil c rw
  | cons p ps ih =>
    simp only [List.all_cons, Bool.and_eq_true] at hps
    exact (strobed_prim c rw hps.1).append (ih hps.2)

theorem setRW_strobed (c : Cfg) (rw rw' : Bool) : Strobed c rw rw' [.setRW rw'] := by
  intro s _
  simp [scriptEvents, primEvents, strobeAfter, Strobe.next, doPrim]

/-- An enable pulse in write direction (R110): nothing but the pulse width while EN is high. -/
theorem pulse_strobed (c : Cfg) : Strobed c false false (pulse c) := by
  intro s hs
  simp [pulse, delay, scriptEvents, primEvents, strobeAfter, Strobe.next, Pins.after, doPrim, hs]

/-- A read cycle (R143): the pulse width, then the one sample. -/
theorem readCyc_strobed (c : Cfg) {smp : Prim} (hsmp : smp = .sampleByte ∨ smp = .sampleHigh ∨ smp = .sampleLow) :
    Strobed c true true (readCyc c smp) := by
  intro s hs
  obtain rfl | rfl | rfl := hsmp <;>
    simp [readCyc, delay, scriptEvents, primEvents, strobeAfter, Strobe.next, Pins.after, doPrim, sampleByte, sampleHigh,
      sampleLow, hs]

theorem delay_strobed (c : Cfg) (rw : Bool) (n : Micros) : Strobed c rw rw (delay n) := strobed_of_offStrobe c rw rfl

theorem raw8_strobed (c : Cfg) (rs : Bool) (b : Byte) : Strobed c false false (raw8 c rs b) :=
  (strobed_of_offStrobe c false rfl).append (pulse_strobed c)

theorem raw4_strobed (c : Cfg) (rs : Bool) (b : Byte) : Strobed c false false (raw4 c rs b) :=
  (((strobed_of_offStrobe c false rfl).append (pulse_strobed c)).append (strobed_of_offStrobe c false rfl)).append
    (pulse_strobed c)

theorem rawNib_strobed (c : Cfg) (rs : Bool) (n : Nibble) : Strobed c false false (rawNib c rs n) :=
  (strobed_of_offStrobe c false rfl).append (pulse_strobed c)

theorem rawByte_strobed (c : Cfg) (rs : Bool) (b : Byte) : Strobed c false false (rawByte c rs b) := by
  unfold rawByte
  split
  · exact raw8_strobed c rs b
  · exact raw4_strobed c rs b

theorem readStatus_strobed (c : Cfg) : Strobed c true true (readStatus c) := by
  unfold readStatus
  split
  · exact readCyc_strobed c (.inl rfl)
  · exact (readCyc_strobed c (.inr (.inl rfl))).append (readCyc_strobed c (.inr (.inr rfl)))

/-- One pass through the loop of `BUSYPOLL` leaves it in write direction (R142). -/
theorem pollLoop_strobed (c : Cfg) (rest : List Xfer) : Strobed c true false (pollLoop c rest) :=
  (readStatus_strobed c).append ((strobed_prim c true rfl).append (setRW_strobed c true false))

theorem busyPoll_strobed (c : Cfg) (rest : List Xfer) : Strobed c false false (busyPoll c rest) :=
  ((strobed_prim c false rfl).append (setRW_strobed c false true)).append (pollLoop_strobed c rest)

theorem sync_strobed (c : Cfg) (rest : List Xfer) : Strobed c false false (sync c rest) := by
  unfold sync
  split
  · exact busyPoll_strobed c rest
  · exact strobed_of_offStrobe c false rfl

/-! ### Whole sequences -/

theorem transfers_strobed (c : Cfg) (xs : List Xfer) : Strobed c false false (transfers c xs) := by
  induction xs with
  | nil => exact strobed_prim c false rfl
  | cons x rest ih =>
    exact (((strobed_prim c false rfl).append (rawByte_strobed c x.rs x.byte)).append (sync_strobed c rest)).append ih

theorem preamble8_strobed (c : Cfg) (fs : Byte) : Strobed c false false (preamble8 c fs) :=
  have raw := raw8_strobed c false fs
  ((((raw.append (delay_strobed c false _)).append raw).append (delay_strobed c false _)).append raw).append
    (delay_strobed c false _)

theorem preamble4_strobed (c : Cfg) (fs : Byte) : Strobed c false false (preamble4 c fs) :=
  have raw := rawNib_strobed c false (highNibble fs)
  ((((raw.append (delay_strobed c false _)).append raw).append (delay_strobed c false _)).append raw).append
    (delay_strobed c false _)

theorem OpScript.strobed (h : OpScript c ps) : Strobed c false false ps := by
  cases h with
  | fail st => exact strobed_prim c false rfl
  | light on line => exact strobed_of_offStrobe c false rfl
  | send x => exact transfers_strobed c [x]
  | initEight fs width => exact (preamble8_strobed c fs).append (transfers_strobed c bringUp)
  | initFour fs width => exact (preamble4_strobed c fs).append (transfers_strobed c (cmd fs .short :: bringUp))

/-! ### Steps -/

/-- A run ends after a part of its sequence, whatever cuts it: `rst` itself is no event (R201). -/
theorem Strobed.runScript_disciplined {s t : State} (hps : Strobed c a b ps) (hs : s.pins.rw = a)
    (h : runScript ps s = .next t) :
    ∃ es, t.trace = s.trace ++ es ∧ disciplined c s.pins .low es = true := by
  obtain ⟨pre, hpre, ⟨q, rfl⟩ | ⟨_, rfl⟩⟩ := runScript_end h <;>
    exact ⟨_, runPrims_trace pre s, hps.disciplined_of_prefix hs hpre⟩

end

/-- Settles O40: idle, the step runs a sequence that begins in write direction; in the poll, one that begins with a status
read in read direction; every such sequence strobes as it should, up to any place where the step may end. -/
theorem pinsAreStableWhileEnableIsHigh : Obligations.PinsAreStableWhileEnableIsHigh := by
  intro s t hinv h
  obtain ⟨_, rfl⟩ | ⟨_, _, rfl⟩ | ⟨rest, hseq, hresume⟩ | ⟨w, ws, hidle, _, hrun⟩ := step_next_cases h
  · exact ⟨[], by simp, rfl⟩
  · exact ⟨[], by simp, rfl⟩
  · obtain ⟨hrw, _⟩ := hinv.pollReads rest hseq
    have hscript := (pollLoop_strobed s.cfg rest).append (transfers_strobed s.cfg rest)
    exact hscript.runScript_disciplined (s := clearDone s) hrw hresume
  · obtain ⟨ps, hps, heq⟩ := runAccepted_runs_opScript (accept w ws s)
    exact hps.strobed.runScript_disciplined (s := accept w ws s) (hinv.idleWrites hidle) (heq ▸ hrun)

end Sys2Proof.Machine
end

section
/-! How a transfer runs to its end with nothing out of turn (R114, R140 to R145): its whole effect with a fixed delay, the
effect of one status read, and with them the run of any list of transfers, on bindings with fixed delays and on bindings
that can read. -/

namespace Sys2Proof.Machine

open Expect

/-- EN and RW low and nothing out of turn under way: where a transfer may begin (R36, R114). -/
structure State.CanSend (s : State) : Prop where
  enLow : s.pins.en = false
  rwLow : s.pins.rw = false
  calm : s.upset = none

theorem State.Ready.canSend {s : State} (h : s.Ready) : s.CanSend := ⟨h.enLow, h.rwLow, h.calm⟩

/-! ### The pieces of a transfer -/

theorem tierDelay_eq_settle (c : Cfg) (t : Tier) : tierDelay c t = settle c t := by cases t <;> rfl

/-- `Delay` (R14, R35). -/
theorem delay_effect (n : Micros) {s : State} (hu : s.upset = none) :
    runPrims (delay n) s = { s with dlyReq := false, dlyUs := n, trace := s.trace ++ [.dly n] } := by
  simp [delay, doPrim, request, awaitDelay, emit, hu]

/-- The write part of a transfer (R112 to R114). -/
theorem rawByte_effect {s : State} (rs : Bool) (b : Byte) (hs : s.CanSend) :
    runPrims (rawByte s.cfg rs b) s =
      { s with
        pins := { rs := rs, en := false, rw := false, dout := lastDriven s.cfg b, bl := s.pins.bl }
        byte := b, dlyReq := false, dlyUs := s.cfg.tPulse
        trace := s.trace ++ writeEvents s.cfg rs b, latched := s.latched ++ latches s.cfg rs b } := by
  cases hw : s.cfg.busWidth with
  | eight =>
    simp [rawByte, hw, raw8_effect rs b hs.enLow hs.rwLow hs.calm, lastDriven, writeEvents, Expect.pulse, latches]
  | four =>
    simp [rawByte, hw, raw4_effect rs b hs.enLow hs.rwLow hs.calm, lastDriven, writeEvents, Expect.pulse, latches,
      highNibble_setWidth, lowNibble_setWidth]

/-- After the write part of a transfer, its tier latched (R114). -/
def written (s : State) (x : Xfer) : State :=
  { s with
    pins := { rs := x.rs, en := false, rw := false, dout := lastDriven s.cfg x.byte, bl := s.pins.bl }
    byte := x.byte, tier := x.tier, dlyReq := false, dlyUs := s.cfg.tPulse
    trace := s.trace ++ writeEvents s.cfg x.rs x.byte, latched := s.latched ++ latches s.cfg x.rs x.byte }

theorem writePart_effect {s : State} (x : Xfer) (hs : s.CanSend) :
    runPrims ([.loadTier x.tier] ++ rawByte s.cfg x.rs x.byte) s = written s x :=
  rawByte_effect (s := { s with tier := x.tier }) x.rs x.byte ⟨hs.enLow, hs.rwLow, hs.calm⟩

/-! ### Transfers with a fixed delay -/

/-- After a transfer that ends in the fixed delay of its tier (R141). -/
def delayed (s : State) (x : Xfer) : State :=
  { written s x with
    dlyUs := settle s.cfg x.tier
    trace := s.trace ++ writeEvents s.cfg x.rs x.byte ++ [.dly (settle s.cfg x.tier)] }

theorem delayed_canSend {s : State} (x : Xfer) (hs : s.CanSend) : (delayed s x).CanSend := ⟨rfl, rfl, hs.calm⟩

/-- Transfers on a binding that cannot read: each one with its delay, then the completion (R114, R141, R150). -/
theorem runScript_transfers_fixed {s : State} (xs : List Xfer) (hs : s.CanSend) (hc : s.cfg.canRead = false) :
    runScript (transfers s.cfg xs) s = .next (completed (xs.foldl delayed s)) := by
  induction xs generalizing s with
  | nil => exact runScript_plain_cons rfl _ hs.calm
  | cons x rest ih =>
    have heffect : runPrims [.requestTier, .await] (written s x) = delayed s x := by
      simp [doPrim, request, awaitDelay, emit, hs.calm, written, delayed, tierDelay_eq_settle]
    rw [transfers, runScript_xfer_fixed hc _ _ _ hs.calm, runPrims_append, writePart_effect x hs, heffect]
    exact ih (delayed_canSend x hs) hc

/-! ### One status read -/

/-- After one status read (R143 to R145), before the exit test of the poll. -/
def statusRead (s : State) : State :=
  { answersRead s with
    rdh := firstHalf s, sts := some (statusByte s), dlyReq := false, dlyUs := s.cfg.tPulse
    trace := s.trace ++ readEvents s }

/-- Using an answer changes the device's answers only. -/
theorem answerUsed_eq (s : State) :
    answerUsed s = { s with din := (answerUsed s).din, samples := (answerUsed s).samples } := by
  unfold answerUsed
  split <;> rfl

/-- So does a status read's use of one answer or two. -/
theorem answersRead_eq (s : State) :
    answersRead s = { s with din := (answersRead s).din, samples := (answersRead s).samples } := by
  unfold answersRead
  split
  · exact answerUsed_eq s
  · rw [answerUsed_eq (answerUsed s), answerUsed_eq s]

@[simp] theorem answersRead_cfg (s : State) : (answersRead s).cfg = s.cfg := by rw [answersRead_eq]
@[simp] theorem answersRead_pins (s : State) : (answersRead s).pins = s.pins := by rw [answersRead_eq]
@[simp] theorem answersRead_seq (s : State) : (answersRead s).seq = s.seq := by rw [answersRead_eq]
@[simp] theorem answersRead_host (s : State) : (answersRead s).host = s.host := by rw [answersRead_eq]
@[simp] theorem answersRead_upset (s : State) : (answersRead s).upset = s.upset := by rw [answersRead_eq]
@[simp] theorem answersRead_latched (s : State) : (answersRead s).latched = s.latched := by rw [answersRead_eq]

theorem assembleStatus_lowNibble (a b : Byte) : assembleStatus (lowNibble a) (lowNibble b) = a <<< 4 ||| low b := by
  rw [assembleStatus, lowNibble_setWidth, lowNibble_setWidth]
  congr 1
  revert a
  decide

theorem lowNibble_eq_setWidth (a : Byte) : lowNibble a = a.setWidth 4 := by
  revert a
  decide

/-- `READSTATUS` (R144, R145). -/
theorem readStatus_effect {s : State} (hen : s.pins.en = false) (hrw : s.pins.rw = true) (hu : s.upset = none) :
    runPrims (readStatus s.cfg) s = statusRead s := by
  cases hw : s.cfg.busWidth with
  | eight =>
    rw [readStatus_eight_effect hw hen hrw hu]
    simp [statusRead, answersRead, firstHalf, statusByte, readEvents, Expect.samples, hw]
  | four =>
    rw [readStatus_four_effect hw hen hrw hu]
    simp [statusRead, answersRead, firstHalf, statusByte, readEvents, Expect.samples, hw, assembleStatus_lowNibble,
      ← lowNibble_eq_setWidth]

/-- After a status read that was ready: the loop is left, and write direction restored (R142, R29). -/
def directionRestored (s : State) : State :=
  { s with pins := { s.pins with rw := false }, rdh := 0, sts := none, trace := s.trace ++ [.rw false] }

section
variable {s : State} (rest : List Xfer) (qs : List Prim) (hen : s.pins.en = false) (hrw : s.pins.rw = true)
  (hu : s.upset = none)
include hen hrw hu

/-- A busy status read ends the step in the loop of `BUSYPOLL` (R142, R146). -/
theorem runScript_pollLoop_busy (hbusy : busyNext s) :
    runScript (pollLoop s.cfg rest ++ qs) s = .next { statusRead s with seq := .polling rest } := by
  rw [runScript_pollLoop _ _ _ hu, readStatus_effect hen hrw hu]
  exact if_pos hbusy

/-- A ready one goes on with what follows the poll (R142). -/
theorem runScript_pollLoop_ready (hready : ¬ busyNext s) :
    runScript (pollLoop s.cfg rest ++ qs) s = runScript qs (directionRestored (statusRead s)) := by
  have hcalm : (statusRead s).upset = none := (answersRead_upset s).trans hu
  have hleft : setRW false (leavePoll (statusRead s)) = directionRestored (statusRead s) := by
    simp [setRW, leavePoll, emit, hcalm, directionRestored]
  rw [runScript_pollLoop _ _ _ hu, readStatus_effect hen hrw hu, ← hleft]
  exact if_neg hready

end

/-! ### Transfers with a poll -/

/-- At the first status read of a transfer's poll: RS low, read direction (R142). -/
def pollEntered (s : State) (x : Xfer) : State :=
  { written s x with
    pins := { rs := false, en := false, rw := true, dout := lastDriven s.cfg x.byte, bl := s.pins.bl }
    trace := s.trace ++ writeEvents s.cfg x.rs x.byte ++ [.rs false, .rw true] }

theorem pollEntered_cfg (s : State) (x : Xfer) : (pollEntered s x).cfg = s.cfg := rfl

section
variable {s t : State} (hc : s.cfg = t.cfg) (hd : s.din = t.din) (hk : s.dinCycle = t.dinCycle)
  (hn : s.samples = t.samples)
include hc hd hk hn

/-- The samples of a status read depend only on the configuration and the device's answers. -/
theorem lineValues_congr : lineValue s = lineValue t ∧ lineValue (answerUsed s) = lineValue (answerUsed t) := by
  obtain ⟨hd', hn'⟩ := answerUsed_congr hd hk hn
  exact ⟨lineValue_congr hc hd hk hn, lineValue_congr (by simpa using hc) hd' (by simpa using hk) hn'⟩

theorem statusByte_congr : statusByte s = statusByte t := by
  obtain ⟨h₁, h₂⟩ := lineValues_congr hc hd hk hn
  simp only [statusByte, hc, h₁, h₂]

theorem busyNext_congr : busyNext s ↔ busyNext t := by
  unfold busyNext
  rw [statusByte_congr hc hd hk hn]

theorem readEvents_congr : readEvents s = readEvents t := by
  obtain ⟨h₁, h₂⟩ := lineValues_congr hc hd hk hn
  simp only [readEvents, Expect.samples, hc, h₁, h₂]

theorem firstHalf_congr (hr : s.rdh = t.rdh) : firstHalf s = firstHalf t := by
  simp only [firstHalf, hc, hr, lineValue_congr hc hd hk hn]

theorem answersRead_congr :
    (answersRead s).din = (answersRead t).din ∧ (answersRead s).samples = (answersRead t).samples := by
  obtain ⟨hd', hn'⟩ := answerUsed_congr hd hk hn
  unfold answersRead
  rw [hc]
  split
  · exact ⟨hd', hn'⟩
  · exact answerUsed_congr hd' (by simpa using hk) hn'

/-- A status read in `s`, said by the answers that the device would give in `t`. -/
theorem statusRead_of_agree (hr : s.rdh = t.rdh) :
    statusRead s =
      { s with
        din := (answersRead t).din, samples := (answersRead t).samples, rdh := firstHalf t, sts := some (statusByte t)
        dlyReq := false, dlyUs := t.cfg.tPulse, trace := s.trace ++ readEvents t } := by
  obtain ⟨hdin, hsamples⟩ := answersRead_congr hc hd hk hn
  rw [statusRead, answersRead_eq, hdin, hsamples, firstHalf_congr hc hd hk hn hr, statusByte_congr hc hd hk hn,
    readEvents_congr hc hd hk hn, hc]

end

/-- The poll of a transfer reads what the device would have answered before it. -/
theorem busyNext_pollEntered (s : State) (x : Xfer) : busyNext (pollEntered s x) ↔ busyNext s :=
  busyNext_congr rfl rfl rfl rfl

theorem statusRead_pollEntered (s : State) (x : Xfer) :
    statusRead (pollEntered s x) =
      { answersRead s with
        pins := { rs := false, en := false, rw := true, dout := lastDriven s.cfg x.byte, bl := s.pins.bl }
        byte := x.byte, tier := x.tier, rdh := firstHalf s, sts := some (statusByte s)
        dlyReq := false, dlyUs := s.cfg.tPulse
        trace := s.trace ++ writeEvents s.cfg x.rs x.byte ++ [.rs false, .rw true] ++ readEvents s
        latched := s.latched ++ latches s.cfg x.rs x.byte } := by
  rw [statusRead_of_agree (s := pollEntered s x) (t := s) rfl rfl rfl rfl rfl, answersRead_eq s]
  rfl

/-- A busy first status read leaves the transfer in its poll. -/
theorem statusRead_pollEntered_polling (s : State) (x : Xfer) (rest : List Xfer) :
    { statusRead (pollEntered s x) with seq := .polling rest } = sentBusy s x.rs x.byte x.tier rest := by
  rw [statusRead_pollEntered]
  rfl

/-- A ready one ends it. -/
theorem directionRestored_pollEntered (s : State) (x : Xfer) :
    directionRestored (statusRead (pollEntered s x)) = sentReady s x.rs x.byte x.tier := by
  rw [statusRead_pollEntered]
  rfl

theorem sentReady_cfg (s : State) (rs : Bool) (b : Byte) (t : Tier) : (sentReady s rs b t).cfg = s.cfg := answersRead_cfg s

theorem sentReady_canSend {s : State} (rs : Bool) (b : Byte) (t : Tier) (hs : s.CanSend) : (sentReady s rs b t).CanSend :=
  ⟨rfl, rfl, (answersRead_upset s).trans hs.calm⟩

/-- Transfers on a binding that can read, up to the first busy status read or the completion (R114, R142, R150). -/
theorem runScript_transfers_poll {s : State} (xs : List Xfer) (hs : s.CanSend) (hc : s.cfg.canRead = true) :
    runScript (transfers s.cfg xs) s = .next (sendAll xs s) := by
  induction xs generalizing s with
  | nil => exact runScript_plain_cons rfl _ hs.calm
  | cons x rest ih =>
    have henter : runPrims [.setRS false, .setRW true] (written s x) = pollEntered s x := by
      simp [doPrim, setRS, setRW, emit, hs.calm, written, pollEntered]
    rw [transfers, runScript_xfer_poll hc _ _ _ hs.calm, runPrims_append, writePart_effect x hs, henter, sendAll]
    by_cases hbusy : busyNext s
    · have hpoll := runScript_pollLoop_busy (s := pollEntered s x) rest (transfers s.cfg rest) rfl rfl hs.calm
        ((busyNext_pollEntered s x).mpr hbusy)
      rw [if_pos hbusy, ← statusRead_pollEntered_polling]
      exact hpoll
    · have hpoll := runScript_pollLoop_ready (s := pollEntered s x) rest (transfers s.cfg rest) rfl rfl hs.calm
        (mt (busyNext_pollEntered s x).mp hbusy)
      have hrest := ih (sentReady_canSend x.rs x.byte x.tier hs) (by rwa [sentReady_cfg])
      rw [if_neg hbusy, ← hrest, sentReady_cfg, ← directionRestored_pollEntered]
      exact hpoll

end Sys2Proof.Machine
end

section
/-! INIT in one step (R130 to R135): its preamble and the list of transfers that follow it, with fixed delays and with
polls. -/

namespace Sys2Proof.Machine

open Expect

theorem functionSet_eq_expect (c : Cfg) (n f : Bool) : Machine.functionSet c.busWidth n f = Expect.functionSet c n f := by
  unfold Expect.functionSet
  cases c.busWidth <;> cases n <;> cases f <;> rfl

/-! ### The preamble -/

/-- What one function-set transfer of the preamble puts on the lines (R132, R133). -/
def preambleValue (c : Cfg) (fs : Byte) : Byte :=
  match c.busWidth with
  | .eight => fs
  | .four => high fs

/-- After one function-set transfer of the preamble and its fixed delay (R132, R133, R135). -/
def preambleSent (s : State) (fs : Byte) (n : Micros) : State :=
  { s with
    pins := { rs := false, en := false, rw := false, dout := preambleValue s.cfg fs, bl := s.pins.bl }
    byte := preambleValue s.cfg fs, dlyReq := false, dlyUs := n
    trace := s.trace ++ preambleWrite s.cfg fs ++ [.dly n]
    latched := s.latched ++ [(false, preambleValue s.cfg fs)] }

theorem preambleSent_canSend {s : State} (fs : Byte) (n : Micros) (hs : s.CanSend) : (preambleSent s fs n).CanSend :=
  ⟨rfl, rfl, hs.calm⟩

theorem raw8_delay_effect {s : State} (fs : Byte) (n : Micros) (hw : s.cfg.busWidth = .eight) (hs : s.CanSend) :
    runPrims (raw8 s.cfg false fs ++ delay n) s = preambleSent s fs n := by
  simp [runPrims_append, raw8_effect, delay_effect, hs.enLow, hs.rwLow, hs.calm, preambleSent, preambleValue,
    preambleWrite, Expect.pulse, hw]

theorem rawNib_delay_effect {s : State} (fs : Byte) (n : Micros) (hw : s.cfg.busWidth = .four) (hs : s.CanSend) :
    runPrims (rawNib s.cfg false (highNibble fs) ++ delay n) s = preambleSent s fs n := by
  simp [runPrims_append, rawNib_effect, delay_effect, hs.enLow, hs.rwLow, hs.calm, preambleSent, preambleValue,
    preambleWrite, Expect.pulse, hw, highNibble_setWidth]

/-- The preamble is three function-set transfers. -/
theorem afterPreamble_eq (s : State) (fs : Byte) :
    afterPreamble s fs =
      preambleSent (preambleSent (preambleSent s fs s.cfg.tInit1) fs s.cfg.tInit2) fs s.cfg.tInit3 := by
  cases hw : s.cfg.busWidth <;>
    simp [afterPreamble, preambleSent, preambleValue, preamble, preambleLatches, hw]

/-- Three times a sequence with the effect of one function-set transfer has the effect of the preamble. -/
theorem afterPreamble_of_parts {s : State} {ps : List Prim} {fs : Byte} (hs : s.CanSend)
    (hps : ∀ (t : State) (n : Micros), t.CanSend → t.cfg = s.cfg → runPrims (ps ++ delay n) t = preambleSent t fs n) :
    runPrims (ps ++ delay s.cfg.tInit1 ++ ps ++ delay s.cfg.tInit2 ++ ps ++ delay s.cfg.tInit3) s = afterPreamble s fs := by
  have h₁ := preambleSent_canSend fs s.cfg.tInit1 hs
  have h₂ := preambleSent_canSend fs s.cfg.tInit2 h₁
  rw [List.append_assoc _ ps (delay s.cfg.tInit3), List.append_assoc _ ps (delay s.cfg.tInit2),
    runPrims_append _ (ps ++ delay s.cfg.tInit3), runPrims_append _ (ps ++ delay s.cfg.tInit2),
    hps _ _ hs rfl, hps _ _ h₁ rfl, hps _ _ h₂ rfl, afterPreamble_eq]

theorem preamble8_effect {s : State} (fs : Byte) (hw : s.cfg.busWidth = .eight) (hs : s.CanSend) :
    runPrims (preamble8 s.cfg fs) s = afterPreamble s fs :=
  afterPreamble_of_parts hs fun _ n ht hcfg => hcfg ▸ raw8_delay_effect fs n (hcfg ▸ hw) ht

theorem preamble4_effect {s : State} (fs : Byte) (hw : s.cfg.busWidth = .four) (hs : s.CanSend) :
    runPrims (preamble4 s.cfg fs) s = afterPreamble s fs :=
  afterPreamble_of_parts hs fun _ n ht hcfg => hcfg ▸ rawNib_delay_effect fs n (hcfg ▸ hw) ht

theorem afterPreamble_canSend {s : State} (fs : Byte) (hs : s.CanSend) : (afterPreamble s fs).CanSend :=
  ⟨rfl, rfl, hs.calm⟩

/-! ### The transfers after the preamble -/

/-- The transfers of INIT after its preamble (R133, R134). -/
def initTransfers (c : Cfg) (fs : Byte) : List Xfer :=
  match c.busWidth with
  | .eight => bringUp
  | .four => cmd fs .short :: bringUp

/-- INIT is its preamble, then its transfers (R130). -/
theorem exec_init {s : State} (n f : Bool) (hs : s.CanSend) :
    exec (.init n f) s =
      runScript (transfers s.cfg (initTransfers s.cfg (Expect.functionSet s.cfg n f)))
        (afterPreamble s (Expect.functionSet s.cfg n f)) := by
  rw [exec, execInit, functionSet_eq_expect]
  unfold initTransfers
  cases hw : s.cfg.busWidth with
  | eight =>
    dsimp only
    rw [runScript_plain_append (preamble8_plain _ _) _ hs.calm, preamble8_effect _ hw hs]
  | four =>
    dsimp only
    rw [runScript_plain_append (preamble4_plain _ _) _ hs.calm, preamble4_effect _ hw hs]

theorem exec_init_fixed {s : State} (n f : Bool) (hs : s.CanSend) (hc : s.cfg.canRead = false) :
    exec (.init n f) s =
      .next (completed ((initTransfers s.cfg (Expect.functionSet s.cfg n f)).foldl delayed
        (afterPreamble s (Expect.functionSet s.cfg n f)))) := by
  rw [exec_init n f hs]
  exact runScript_transfers_fixed _ (afterPreamble_canSend _ hs) hc

theorem exec_init_poll {s : State} (n f : Bool) (hs : s.CanSend) (hc : s.cfg.canRead = true) :
    exec (.init n f) s =
      .next (sendAll (initTransfers s.cfg (Expect.functionSet s.cfg n f))
        (afterPreamble s (Expect.functionSet s.cfg n f))) := by
  rw [exec_init n f hs]
  exact runScript_transfers_poll _ (afterPreamble_canSend _ hs) hc

/-! ### INIT with fixed delays -/

/-- Settles O23: the preamble, then the three transfers of the bring-up with their delays. -/
theorem initOnEightLinesWithFixedDelays : Obligations.InitOnEightLinesWithFixedDelays := by
  intro s n f hs hw hc
  rw [exec_init_fixed n f hs.canSend hc]
  simp [initTransfers, hw, bringUp, cmd, delayed, written, afterPreamble, completed, hs.idle, lastDriven, latches,
    fixedEvents, settle]

theorem high_functionSet_four {c : Cfg} (hw : c.busWidth = .four) (n f : Bool) : high (Expect.functionSet c n f) = 0x2 := by
  simp only [Expect.functionSet, hw]
  cases n <;> cases f <;> rfl

theorem low_functionSet_four {c : Cfg} (hw : c.busWidth = .four) (n f : Bool) :
    low (Expect.functionSet c n f) = BitVec.ofNat 8 (8 * bit n + 4 * bit f) := by
  simp only [Expect.functionSet, hw]
  cases n <;> cases f <;> rfl

/-- Settles O24: the preamble, then the function set and the three transfers of the bring-up with their delays. -/
theorem initOnFourLinesWithFixedDelays : Obligations.InitOnFourLinesWithFixedDelays := by
  intro s n f hs hw hc
  rw [exec_init_fixed n f hs.canSend hc]
  simpa [initTransfers, hw, bringUp, cmd, delayed, written, afterPreamble, completed, hs.idle, lastDriven, latches,
    fixedEvents, settle, preambleLatches, high, low]
    using And.intro (high_functionSet_four hw n f) (low_functionSet_four hw n f)

/-! ### INIT with polls -/

/-- Settles O25: with every status read ready, the transfers after the preamble are sent one after the other. -/
theorem initWithPollingCompletesWhenTheDeviceIsReady : Obligations.InitWithPollingCompletesWhenTheDeviceIsReady := by
  intro s n f hs hc fs p q q1 q2 hp hq hq1 hq2
  rw [exec_init_poll n f hs.canSend hc]
  have hbringUp : sendAll bringUp q = completed (sentReady q2 false 0x06 .short) := by
    simp only [bringUp, cmd, sendAll]
    rw [if_neg hq, if_neg hq1, if_neg hq2]
  rw [← hbringUp]
  cases hw : s.cfg.busWidth with
  | eight => simp only [q, initTransfers, hw]; rfl
  | four =>
    simp only [q, initTransfers, hw]
    exact congrArg _ (if_neg (hp hw))

/-- Settles O26: the first transfer after the preamble finds the device busy. -/
theorem initWithPollingWaitsWhileTheDeviceIsBusy : Obligations.InitWithPollingWaitsWhileTheDeviceIsBusy := by
  intro s n f hs hc fs p hp
  rw [exec_init_poll n f hs.canSend hc]
  congr 1
  cases hw : s.cfg.busWidth with
  | eight => simp only [initTransfers, hw]; exact if_pos hp
  | four => simp only [initTransfers, hw]; exact if_pos hp

end Sys2Proof.Machine
end

section
/-! INIT and its polls over many steps (R142, R146): one step in the poll, any number of busy status reads before a ready
one, and a whole list of transfers with any number of busy reads in each of their polls. -/

namespace Sys2Proof.Machine

open Expect

/-! ### Runs of steps -/

theorem runSteps_succ {s t : State} (k : Nat) (h : step s = .next t) : runSteps (k + 1) s = runSteps k t := by
  simp only [runSteps, h]

theorem runSteps_add {s t : State} {j : Nat} (k : Nat) (h : runSteps j s = .next t) :
    runSteps (j + k) s = runSteps k t := by
  induction j generalizing s with
  | zero =>
    obtain rfl := Host.Outcome.next.inj h
    rw [Nat.zero_add]
  | succ j ih =>
    cases hstep : step s with
    | next u =>
      rw [runSteps_succ j hstep] at h
      rw [Nat.succ_add, runSteps_succ _ hstep, ih h]
    | fault f => simp [runSteps, hstep] at h
    | refused r => simp [runSteps, hstep] at h

/-! ### One step in the poll -/

theorem step_of_inPoll {s : State} {rest : List Xfer} (hs : s.InPoll rest) :
    step s = runScript (pollLoop s.cfg rest ++ transfers s.cfg rest) (clearDone s) := by
  rw [step_of_calm hs.calm]
  simp only [advance, hs.polling]
  rfl

theorem busyNext_clearDone (s : State) : busyNext (clearDone s) ↔ busyNext s := busyNext_congr rfl rfl rfl rfl

theorem statusRead_clearDone (s : State) : statusRead (clearDone s) = stillPolling s := by
  rw [statusRead_of_agree (s := clearDone s) (t := s) rfl rfl rfl rfl rfl, stillPolling, answersRead_eq s]
  rfl

theorem stillPolling_inPoll {s : State} {rest : List Xfer} (hs : s.InPoll rest) : (stillPolling s).InPoll rest where
  polling := (answersRead_seq s).trans hs.polling
  rsLow := (congrArg Pins.rs (answersRead_pins s)).trans hs.rsLow
  enLow := (congrArg Pins.en (answersRead_pins s)).trans hs.enLow
  rwHigh := (congrArg Pins.rw (answersRead_pins s)).trans hs.rwHigh
  reads := (congrArg Cfg.canRead (answersRead_cfg s)).trans hs.reads
  calm := (answersRead_upset s).trans hs.calm

theorem leftPoll_cfg (s : State) : (leftPoll s).cfg = s.cfg := answersRead_cfg s

theorem leftPoll_canSend {s : State} {rest : List Xfer} (hs : s.InPoll rest) : (leftPoll s).CanSend :=
  ⟨hs.enLow, rfl, (answersRead_upset s).trans hs.calm⟩

/-- A busy status read is one step in the poll (R142, R146). -/
theorem step_of_busy {s : State} {rest : List Xfer} (hs : s.InPoll rest) (hbusy : busyNext s) :
    step s = .next (stillPolling s) := by
  have hpoll := runScript_pollLoop_busy (s := clearDone s) rest (transfers s.cfg rest) hs.enLow hs.rwHigh hs.calm
    ((busyNext_clearDone s).mpr hbusy)
  have hseq : { stillPolling s with seq := .polling rest } = stillPolling s := by
    rw [← (stillPolling_inPoll hs).polling]
  rw [step_of_inPoll hs, ← hseq, ← statusRead_clearDone]
  exact hpoll

/-- A ready one leaves the poll, and the step goes on with the transfers that are left (R142, R114). -/
theorem step_of_ready {s : State} {rest : List Xfer} (hs : s.InPoll rest) (hready : ¬ busyNext s) :
    step s = .next (sendAll rest (leftPoll s)) := by
  have hpoll := runScript_pollLoop_ready (s := clearDone s) rest (transfers s.cfg rest) hs.enLow hs.rwHigh hs.calm
    (mt (busyNext_clearDone s).mp hready)
  have hleft : directionRestored (statusRead (clearDone s)) = leftPoll s := by
    rw [statusRead_clearDone]
    simp [directionRestored, stillPolling, leftPoll]
  have hrest := runScript_transfers_poll rest (leftPoll_canSend hs) ((congrArg Cfg.canRead (leftPoll_cfg s)).trans hs.reads)
  rw [step_of_inPoll hs, ← hrest, leftPoll_cfg, ← hleft]
  exact hpoll

/-! ### The answers of a status read -/

theorem lineValue_of_din {s : State} {v : Byte} {vs : List Byte} (h : s.din = v :: vs) :
    lineValue s = onLines s.cfg.busWidth v := by
  simp only [lineValue, answers_of_din h]

theorem answerUsed_of_din {s : State} {v : Byte} {vs : List Byte} (h : s.din = v :: vs) :
    answerUsed s = { s with din := vs } := by
  simp only [answerUsed, answers_of_din h]

/-- The halves of a status byte, each on 4 lines, make the byte (R145). -/
theorem statusByte_of_halves (v : Byte) :
    onLines .four (high v) <<< 4 ||| low (onLines .four (low v)) = v := by
  revert v
  decide

/-- A status read takes the samples of one status byte (R144, R145). -/
theorem statusByte_of_answers {s : State} {v : Byte} {later : List Byte} (h : s.din = answers s.cfg v ++ later) :
    statusByte s = v ∧ (answersRead s).din = later := by
  unfold answers at h
  cases hw : s.cfg.busWidth with
  | eight =>
    simp only [hw] at h
    simp [statusByte, answersRead, hw, lineValue_of_din h, answerUsed_of_din h, onLines]
  | four =>
    simp only [hw] at h
    have h' : (answerUsed s).din = low v :: later := by rw [answerUsed_of_din h]; rfl
    refine ⟨?_, by simp [answersRead, hw, answerUsed_of_din h']⟩
    simpa [statusByte, hw, lineValue_of_din h, lineValue_of_din h'] using statusByte_of_halves v

theorem busyNext_of_answers {s : State} {v : Byte} {later : List Byte} (h : s.din = answers s.cfg v ++ later) :
    busyNext s ↔ v.getLsbD 7 = true := by
  unfold busyNext
  rw [(statusByte_of_answers h).1]

theorem readEvents_length (s : State) : (readEvents s).length = 4 * pulses s.cfg := by
  cases hw : s.cfg.busWidth <;> simp [readEvents, Expect.samples, pulses, hw]

theorem writeEvents_length (c : Cfg) (rs : Bool) (b : Byte) : (writeEvents c rs b).length = 1 + 4 * pulses c := by
  cases hw : c.busWidth <;> simp [writeEvents, Expect.pulse, pulses, hw]

theorem preamble_length (c : Cfg) (fs : Byte) : (preamble c fs).length = 18 := by
  cases hw : c.busWidth <;> simp [preamble, preambleWrite, Expect.pulse, hw]

/-! ### What a part of a run adds -/

/-- From `s` to `t` the device latched `ls` and `k` events occurred; the binding and the host's words are the same. -/
structure Adds (ls : List (Bool × Byte)) (k : Nat) (s t : State) : Prop where
  cfg : t.cfg = s.cfg
  host : t.host = s.host
  latched : t.latched = s.latched ++ ls
  events : t.trace.length = s.trace.length + k

theorem Adds.refl (s : State) : Adds [] 0 s s := ⟨rfl, rfl, by simp, rfl⟩

theorem Adds.trans {ls ls' : List (Bool × Byte)} {j k : Nat} {s t u : State} (h : Adds ls j s t) (h' : Adds ls' k t u) :
    Adds (ls ++ ls') (j + k) s u where
  cfg := h'.cfg.trans h.cfg
  host := h'.host.trans h.host
  latched := by rw [h'.latched, h.latched, List.append_assoc]
  events := by rw [h'.events, h.events, Nat.add_assoc]

theorem Adds.of_eq {ls ls' : List (Bool × Byte)} {j k : Nat} {s t : State} (h : Adds ls j s t) (hls : ls = ls')
    (hk : j = k) : Adds ls' k s t := hls ▸ hk ▸ h

theorem stillPolling_adds (s : State) : Adds [] (4 * pulses s.cfg) s (stillPolling s) := by
  constructor <;> simp [stillPolling, readEvents_length]

theorem leftPoll_adds (s : State) : Adds [] (4 * pulses s.cfg + 1) s (leftPoll s) := by
  constructor <;> simp [leftPoll, stillPolling, readEvents_length]

theorem sentBusy_adds (s : State) (x : Xfer) (rest : List Xfer) :
    Adds (latches s.cfg x.rs x.byte) (3 + 4 * pulses s.cfg + 4 * pulses s.cfg) s (sentBusy s x.rs x.byte x.tier rest) := by
  constructor <;> simp [sentBusy, readEvents_length, writeEvents_length]
  omega

theorem sentReady_adds (s : State) (x : Xfer) :
    Adds (latches s.cfg x.rs x.byte) (4 + 4 * pulses s.cfg + 4 * pulses s.cfg) s (sentReady s x.rs x.byte x.tier) := by
  constructor <;> simp [sentReady, readEvents_length, writeEvents_length]
  omega

theorem afterPreamble_adds (s : State) (fs : Byte) : Adds (preambleLatches s.cfg fs) 18 s (afterPreamble s fs) := by
  constructor <;> simp [afterPreamble, preamble_length]

/-! ### Any number of busy status reads -/

/-- Between two transfers, RS low, the device's listed answers `vs`. -/
structure State.AtRest (s : State) (vs : List Byte) : Prop where
  canSend : s.CanSend
  rsLow : s.pins.rs = false
  din : s.din = vs

/-- The status bytes of one poll: busy ones, then one that is ready (R142). -/
def BusyThenReady (poll : List Byte × Byte) : Prop :=
  (∀ v ∈ poll.1, v.getLsbD 7 = true) ∧ poll.2.getLsbD 7 = false

/-- The poll is left at the first ready status byte, however many busy ones come before it (R142, R146). -/
theorem runSteps_of_inPoll {s : State} {rest : List Xfer} {busy : List Byte} {ready : Byte} {later : List Byte}
    (hs : s.InPoll rest) (hpoll : BusyThenReady (busy, ready))
    (hdin : s.din = (busy ++ [ready]).flatMap (answers s.cfg) ++ later) :
    ∃ t, runSteps (busy.length + 1) s = .next (sendAll rest t) ∧ t.AtRest later ∧
      Adds [] (4 * pulses s.cfg * busy.length + (4 * pulses s.cfg + 1)) s t := by
  induction busy generalizing s with
  | nil =>
    have hanswers : s.din = answers s.cfg ready ++ later := by simpa using hdin
    have hleft := (statusByte_of_answers hanswers).2
    have hready : ¬ busyNext s := mt (busyNext_of_answers hanswers).mp (ne_true_of_eq_false hpoll.2)
    refine ⟨leftPoll s, runSteps_succ 0 (step_of_ready hs hready), ⟨leftPoll_canSend hs, hs.rsLow, hleft⟩, ?_⟩
    simpa using leftPoll_adds s
  | cons v busy ih =>
    have hanswers : s.din = answers s.cfg v ++ ((busy ++ [ready]).flatMap (answers s.cfg) ++ later) := by
      simpa using hdin
    have hleft := (statusByte_of_answers hanswers).2
    have hbusy : busyNext s := (busyNext_of_answers hanswers).mpr (hpoll.1 v (by simp))
    have hread := stillPolling_adds s
    obtain ⟨t, hrun, hrest, hadds⟩ := ih (stillPolling_inPoll hs) ⟨fun u hu => hpoll.1 u (by simp [hu]), hpoll.2⟩
      (by rw [hread.cfg]; exact hleft)
    refine ⟨t, (runSteps_succ _ (step_of_busy hs hbusy)).trans hrun, hrest, (hread.trans hadds).of_eq rfl ?_⟩
    rw [hread.cfg, List.length_cons]
    ring

/-- A transfer is sent once and its poll left at the first ready status byte (R114, R142). -/
theorem runSteps_sendAll_cons {s : State} {x : Xfer} {rest : List Xfer} {busy : List Byte} {ready : Byte}
    {later : List Byte} (hs : s.CanSend) (hc : s.cfg.canRead = true) (hpoll : BusyThenReady (busy, ready))
    (hdin : s.din = (busy ++ [ready]).flatMap (answers s.cfg) ++ later) :
    ∃ t, runSteps busy.length (sendAll (x :: rest) s) = .next (sendAll rest t) ∧ t.AtRest later ∧
      Adds (latches s.cfg x.rs x.byte) (4 + 4 * pulses s.cfg + 4 * pulses s.cfg * (busy.length + 1)) s t := by
  cases busy with
  | nil =>
    have hanswers : s.din = answers s.cfg ready ++ later := by simpa using hdin
    have hleft := (statusByte_of_answers hanswers).2
    have hready : ¬ busyNext s := mt (busyNext_of_answers hanswers).mp (ne_true_of_eq_false hpoll.2)
    refine ⟨sentReady s x.rs x.byte x.tier, ?_, ⟨sentReady_canSend _ _ _ hs, rfl, hleft⟩, ?_⟩
    · rw [sendAll, if_neg hready]
      rfl
    · simpa using sentReady_adds s x
  | cons v busy =>
    have hanswers : s.din = answers s.cfg v ++ ((busy ++ [ready]).flatMap (answers s.cfg) ++ later) := by
      simpa using hdin
    have hleft := (statusByte_of_answers hanswers).2
    have hbusy : busyNext s := (busyNext_of_answers hanswers).mpr (hpoll.1 v (by simp))
    have hsent := sentBusy_adds s x rest
    have hin : (sentBusy s x.rs x.byte x.tier rest).InPoll rest :=
      ⟨rfl, rfl, rfl, rfl, (congrArg Cfg.canRead hsent.cfg).trans hc, (answersRead_upset s).trans hs.calm⟩
    obtain ⟨t, hrun, hrest, hadds⟩ := runSteps_of_inPoll (busy := busy) hin ⟨fun u hu => hpoll.1 u (by simp [hu]), hpoll.2⟩
      (by rw [hsent.cfg]; exact hleft)
    refine ⟨t, by rw [sendAll, if_pos hbusy]; exact hrun, hrest, (hsent.trans hadds).of_eq (List.append_nil _) ?_⟩
    rw [hsent.cfg, List.length_cons]
    ring

/-- Transfers, each with any number of busy status reads in its poll, up to the completion (R114, R142, R150). -/
theorem runSteps_sendAll {s : State} {xs : List Xfer} {polls : List (List Byte × Byte)} {later : List Byte}
    (hlen : polls.length = xs.length) (hpolls : ∀ p ∈ polls, BusyThenReady p) (hc : s.cfg.canRead = true)
    (hs : s.AtRest (pollAnswers s.cfg polls ++ later)) :
    ∃ t, runSteps (polls.map fun p => p.1.length).sum (sendAll xs s) = .next (completed t) ∧ t.AtRest later ∧
      Adds (xs.flatMap fun x => latches s.cfg x.rs x.byte)
        (polls.map fun p => 4 + 4 * pulses s.cfg + 4 * pulses s.cfg * (p.1.length + 1)).sum s t := by
  induction xs generalizing s polls with
  | nil =>
    obtain rfl : polls = [] := List.eq_nil_of_length_eq_zero hlen
    exact ⟨s, rfl, hs, .refl s⟩
  | cons x rest ih =>
    obtain ⟨⟨busy, ready⟩, polls, rfl⟩ := List.exists_cons_of_length_eq_add_one hlen
    obtain ⟨t, hrun, hrest, hadds⟩ := runSteps_sendAll_cons (x := x) (rest := rest) (ready := ready)
      (later := pollAnswers s.cfg polls ++ later) hs.canSend hc (hpolls (busy, ready) (by simp))
      (by simpa [pollAnswers] using hs.din)
    obtain ⟨u, hrun', hdone, hadds'⟩ := ih (s := t) (polls := polls) (by simpa using hlen)
      (fun p hp => hpolls p (by simp [hp])) ((congrArg Cfg.canRead hadds.cfg).trans hc) (by rw [hadds.cfg]; exact hrest)
    rw [hadds.cfg] at hadds'
    exact ⟨u, (runSteps_add _ hrun).trans hrun', hdone, hadds.trans hadds'⟩

/-! ### INIT -/

theorem initTransfers_length (c : Cfg) (fs : Byte) :
    (initTransfers c fs).length = (match c.busWidth with | .eight => 3 | .four => 4) := by
  unfold initTransfers
  cases c.busWidth <;> rfl

theorem initTransfers_latches (c : Cfg) (fs : Byte) :
    (initTransfers c fs).flatMap (fun x => latches c x.rs x.byte) =
      (match c.busWidth with | .eight => [] | .four => latches c false fs)
        ++ latches c false 0x08 ++ latches c false 0x01 ++ latches c false 0x06 := by
  unfold initTransfers
  cases c.busWidth <;> simp [bringUp, cmd]

theorem step_of_init {s : State} {w : Word} {ws : List Word} {n f : Bool} (hs : s.Ready) (hc : s.cfg.canRead = true)
    (hwords : s.words = w :: ws) (hdecode : decode w = .ok (.init n f)) :
    step s = .next (sendAll (initTransfers s.cfg (Expect.functionSet s.cfg n f))
      (afterPreamble (accept w ws s) (Expect.functionSet s.cfg n f))) := by
  rw [step_of_idle hs.idle hs.calm hwords, runAccepted, accept_opr, hdecode]
  exact exec_init_poll n f (s := accept w ws s) ⟨hs.enLow, hs.rwLow, hs.calm⟩ hc

/-- Settles O56: the first step sends the preamble and goes into the first poll that finds the device busy; each transfer is
sent once and its poll left at its first ready status byte. -/
theorem initCompletesAfterAnyBusyReads : Obligations.InitCompletesAfterAnyBusyReads := by
  intro s w ws n f polls later hs hc hwords hdecode hlen hpolls hdin fs
  have haccepted : (accept w ws s).CanSend := ⟨hs.enLow, hs.rwLow, hs.calm⟩
  have hpreamble := afterPreamble_adds (accept w ws s) fs
  obtain ⟨t, hrun, hrest, hadds⟩ := runSteps_sendAll (s := afterPreamble (accept w ws s) fs)
    (xs := initTransfers s.cfg fs) (hlen.trans (initTransfers_length s.cfg fs).symm) hpolls hc
    ⟨afterPreamble_canSend fs haccepted, rfl, hdin⟩
  obtain ⟨-, hhost, hlatched, hevents⟩ := hpreamble.trans hadds
  refine ⟨completed t, ?_, rfl, rfl, rfl, hrest.din, hhost, hrest.rsLow, hrest.canSend.enLow, hrest.canSend.rwLow, ?_, ?_⟩
  · rw [Nat.add_comm, runSteps_succ _ (step_of_init hs hc hwords hdecode)]
    exact hrun
  · refine hlatched.trans ?_
    have hsent := initTransfers_latches s.cfg fs
    simp only [List.append_assoc] at hsent ⊢
    exact congrArg (fun ls => s.latched ++ (preambleLatches s.cfg fs ++ ls)) hsent
  · have hnew : (newEvents s (completed t)).length = t.trace.length - s.trace.length := List.length_drop
    rw [hnew, hevents]
    exact Nat.add_sub_cancel_left _ _

end Sys2Proof.Machine
end

section
/-! The busy-flag poll (R140 to R146): one status read of it, any number of busy ones, busy ones without end, and an
operation of one transfer up to its first ready one. -/

namespace Sys2Proof.Machine

open Expect

/-! ### One status read -/

@[simp] theorem answersRead_opr (s : State) : (answersRead s).opr = s.opr := by rw [answersRead_eq]
@[simp] theorem answersRead_status (s : State) : (answersRead s).status = s.status := by rw [answersRead_eq]
@[simp] theorem answersRead_done (s : State) : (answersRead s).done = s.done := by rw [answersRead_eq]
@[simp] theorem answersRead_dinCycle (s : State) : (answersRead s).dinCycle = s.dinCycle := by rw [answersRead_eq]

/-- Settles O27: the exit test of a busy read ends the step in the loop, and only the read has changed the state. -/
theorem busyStatusReadStaysInThePoll : Obligations.BusyStatusReadStaysInThePoll :=
  fun _ _ hs hbusy => step_of_busy hs hbusy

/-- Settles O29: a ready read leaves the poll, and what is left of the operation is sent. -/
theorem readyStatusReadGoesOnToTheNextTransfer : Obligations.ReadyStatusReadGoesOnToTheNextTransfer :=
  fun _ _ _ hs hready => step_of_ready hs hready

/-- Settles O28: a ready read leaves the poll, and nothing is left to send but the completion. -/
theorem readyStatusReadCompletesTheLastTransfer : Obligations.ReadyStatusReadCompletesTheLastTransfer :=
  fun _ hs hready => step_of_ready hs hready

/-! ### Busy status reads one after the other -/

/-- In `k` steps from `s` to `t` LCDC made `k` busy status reads: it is in the poll of the transfer that `rest` follow, and
nothing but the reads has happened (R146, log 2, log 19). -/
structure PollsFor (rest : List Xfer) (k : Nat) (s t : State) : Prop where
  run : runSteps k s = .next t
  inPoll : t.InPoll rest
  pins : t.pins = s.pins
  status : t.status = s.status
  adds : Adds [] (4 * pulses s.cfg * k) s t
  done : t.done = true → k = 0 ∧ s.done = true

theorem PollsFor.refl {s : State} {rest : List Xfer} (hs : s.InPoll rest) : PollsFor rest 0 s s :=
  ⟨rfl, hs, rfl, rfl, .refl s, fun h => ⟨rfl, h⟩⟩

theorem PollsFor.cons {s t : State} {rest : List Xfer} {k : Nat} (hs : s.InPoll rest) (hbusy : busyNext s)
    (h : PollsFor rest k (stillPolling s) t) : PollsFor rest (k + 1) s t where
  run := (runSteps_succ k (step_of_busy hs hbusy)).trans h.run
  inPoll := h.inPoll
  pins := h.pins.trans (answersRead_pins s)
  status := h.status.trans (answersRead_status s)
  adds := by
    have hread := stillPolling_adds s
    refine (hread.trans h.adds).of_eq rfl ?_
    rw [hread.cfg]
    ring
  done := fun hdone => by
    obtain ⟨_, hread⟩ := h.done hdone
    simp [stillPolling] at hread

/-- Listed busy status bytes, whatever comes after them, are read one a step. -/
theorem pollsFor_of_busy_bytes {s : State} {rest : List Xfer} {busy later : List Byte} (hs : s.InPoll rest)
    (hbusy : ∀ v ∈ busy, v.getLsbD 7 = true) (hdin : s.din = busy.flatMap (answers s.cfg) ++ later) :
    ∃ t, PollsFor rest busy.length s t ∧ t.din = later := by
  induction busy generalizing s with
  | nil => exact ⟨s, .refl hs, hdin⟩
  | cons v busy ih =>
    have hanswers : s.din = answers s.cfg v ++ (busy.flatMap (answers s.cfg) ++ later) := by simpa using hdin
    have hread : (stillPolling s).din = busy.flatMap (answers (stillPolling s).cfg) ++ later := by
      rw [(stillPolling_adds s).cfg]
      exact (statusByte_of_answers hanswers).2
    obtain ⟨t, hpolls, hlater⟩ := ih (stillPolling_inPoll hs) (fun u hu => hbusy u (by simp [hu])) hread
    exact ⟨t, hpolls.cons hs ((busyNext_of_answers hanswers).mpr (hbusy v (by simp))), hlater⟩

/-- Settles O30: by induction on the busy bytes, each of which is one step in the poll. -/
theorem aStuckDeviceHangsThePoll : Obligations.AStuckDeviceHangsThePoll := by
  intro s rest busy later hs hbusy hdin
  obtain ⟨t, ⟨hrun, hin, hpins, hstatus, hadds, hdone⟩, hlater⟩ := pollsFor_of_busy_bytes hs hbusy hdin
  refine ⟨t, hrun, hin.polling, hpins, hstatus, hlater, hadds.latched.trans (List.append_nil _), hadds.events, fun h => ?_⟩
  exact (hdone h).imp_left List.eq_nil_of_length_eq_zero

/-! ### Busy answers without end -/

theorem pending_pending {α : Type} (now cycle : List α) : pending (pending now cycle) cycle = pending now cycle := by
  cases now with
  | nil => cases cycle <;> rfl
  | cons x xs => rfl

/-- Where the list of answers is used up and the cycle begins (log 3), the device answers as if the cycle were listed. -/
theorem lineValue_of_pending (s : State) : lineValue { s with din := s.answers } = lineValue s := by
  simp only [lineValue, State.answers, pending_pending]

theorem answerUsed_of_pending {s : State} (h : s.answers ≠ []) :
    answerUsed { s with din := s.answers } = answerUsed s := by
  obtain ⟨v, vs, hvs⟩ := List.exists_cons_of_ne_nil h
  rw [answerUsed_of_din (vs := vs) hvs]
  simp only [answerUsed, hvs]

theorem answers_ne_nil (c : Cfg) (v : Byte) : answers c v ≠ [] := by
  unfold answers
  split <;> exact List.cons_ne_nil _ _

/-- A status read takes the samples of one status byte, listed or of the cycle. -/
theorem statusByte_of_pending {s : State} {v : Byte} {later : List Byte} (h : s.answers = answers s.cfg v ++ later) :
    statusByte s = v ∧ (answersRead s).din = later := by
  have hne : s.answers ≠ [] := h ▸ List.append_ne_nil_of_left_ne_nil (answers_ne_nil s.cfg v) later
  have hread := statusByte_of_answers (s := { s with din := s.answers }) h
  simpa only [statusByte, answersRead, lineValue_of_pending, answerUsed_of_pending hne] using hread

/-- In the poll, with a device whose listed status bytes are busy, and so are those of the cycle after them (R146). -/
structure NeverReady (s : State) (rest : List Xfer) : Prop where
  inPoll : s.InPoll rest
  busy : ∃ now cycle : List Byte, cycle ≠ [] ∧ (∀ v ∈ now ++ cycle, v.getLsbD 7 = true) ∧
    s.din = now.flatMap (answers s.cfg) ∧ s.dinCycle = cycle.flatMap (answers s.cfg)

/-- Such a device answers with a busy byte, of the list or of the cycle, and busy bytes are left. -/
theorem NeverReady.pending_busy {s : State} {rest : List Xfer} (hs : NeverReady s rest) :
    ∃ (v : Byte) (now cycle : List Byte), v.getLsbD 7 = true ∧ cycle ≠ [] ∧
      (∀ u ∈ now ++ cycle, u.getLsbD 7 = true) ∧ s.answers = answers s.cfg v ++ now.flatMap (answers s.cfg) ∧
      s.dinCycle = cycle.flatMap (answers s.cfg) := by
  obtain ⟨_, now, cycle, hne, hbusy, hdin, hcycle⟩ := hs
  cases now with
  | cons v now =>
    have hfirst := List.append_ne_nil_of_left_ne_nil (answers_ne_nil s.cfg v) (now.flatMap (answers s.cfg))
    refine ⟨v, now, cycle, hbusy v (by simp), hne, fun u hu => hbusy u (List.mem_cons_of_mem v hu), ?_, hcycle⟩
    obtain hlist | ⟨hempty, _⟩ := pending_cases s.din s.dinCycle
    · exact hlist.trans hdin
    · exact absurd (hdin.symm.trans hempty) hfirst
  | nil =>
    obtain ⟨v, now, rfl⟩ := List.exists_cons_of_ne_nil hne
    refine ⟨v, now, v :: now, hbusy v (by simp), hne, fun u hu => hbusy u ?_, ?_, hcycle⟩
    · exact (List.mem_append.mp hu).elim (List.mem_cons_of_mem v) id
    · rw [State.answers, hdin, hcycle]
      rfl

theorem NeverReady.afterRead {s : State} {rest : List Xfer} (hs : NeverReady s rest) :
    busyNext s ∧ NeverReady (stillPolling s) rest := by
  obtain ⟨v, now, cycle, hv, hne, hbusy, hanswers, hcycle⟩ := hs.pending_busy
  obtain ⟨hbyte, hleft⟩ := statusByte_of_pending hanswers
  have hcfg := (stillPolling_adds s).cfg
  refine ⟨by rwa [busyNext, hbyte], stillPolling_inPoll hs.inPoll, now, cycle, hne, hbusy, ?_, ?_⟩
  · rw [hcfg]
    exact hleft
  · rw [hcfg]
    exact (answersRead_dinCycle s).trans hcycle

theorem NeverReady.pollsFor {s : State} {rest : List Xfer} (hs : NeverReady s rest) (k : Nat) :
    ∃ t, PollsFor rest k s t := by
  induction k generalizing s with
  | zero => exact ⟨s, .refl hs.inPoll⟩
  | succ k ih =>
    obtain ⟨hbusy, hstill⟩ := hs.afterRead
    obtain ⟨t, hpolls⟩ := ih hstill
    exact ⟨t, hpolls.cons hs.inPoll hbusy⟩

theorem State.InPoll.not_opReady {s : State} {rest : List Xfer} (hs : s.InPoll rest) : s.opReady = false := by
  simp [State.opReady, hs.polling]

/-- Settles O57: a read of such a device is busy and leaves such a device, so it is one more step in the poll, whatever the
number of steps. -/
theorem anUnendingBusyAnswerNeverEndsThePoll : Obligations.AnUnendingBusyAnswerNeverEndsThePoll := by
  intro s rest now cycle hs hne hbusy hdin hcycle k
  have hnever : NeverReady s rest := ⟨hs, now, cycle, hne, hbusy, hdin, hcycle⟩
  obtain ⟨t, hrun, hin, hpins, _, hadds, hdone⟩ := hnever.pollsFor k
  exact ⟨t, hrun, hin, hin.not_opReady, hpins, (driven_of_rwHigh hin.rwHigh).2,
    hadds.latched.trans (List.append_nil _), hadds.events, hdone⟩

/-! ### An operation of one transfer -/

theorem cgByte_eq (addr6 : BitVec 6) : cgByte addr6 = BitVec.ofNat 8 (0x40 + addr6.toNat) := by
  revert addr6
  decide

theorem ddByte_eq (addr7 : BitVec 7) : ddByte addr7 = BitVec.ofNat 8 (0x80 + addr7.toNat) := by
  revert addr7
  decide

/-- An operation with one transfer is the sequence of that transfer (R150 to R159). -/
theorem exec_of_transferOf {s : State} {i : Instr} {rs : Bool} {b : Byte} {t : Tier} (hwf : s.cfg.wf = true)
    (hi : transferOf s.cfg i = some (rs, b, t)) : exec i s = runTransfers [⟨rs, b, t⟩] s := by
  cases i with
  | clear | home | write => cases hi; rfl
  | entry dir sh => cases hi; cases dir <;> cases sh <;> rfl
  | display on cur blk => cases hi; cases on <;> cases cur <;> cases blk <;> rfl
  | shift tgt rl => cases hi; cases tgt <;> cases rl <;> rfl
  | setcg addr6 => cases hi; rw [exec, execSetcg, cgByte_eq]; rfl
  | setdd addr7 => cases hi; rw [exec, execSetdd, ddByte_eq]; rfl
  | pos row col =>
    simp only [transferOf, Option.ite_none_right_eq_some] at hi
    obtain ⟨⟨hrow, hcol⟩, hi⟩ := hi
    obtain ⟨addr7, haddr, hsum, _⟩ := posAddressNeverWraps s.cfg row col hwf hrow hcol
    cases hi
    simp only [exec, execPos, haddr]
    rw [ddByte_eq, hsum, Nat.add_assoc]
    rfl
  | init n f => cases hi
  | backlight on => cases hi

/-- The step that accepts an operation of one transfer sends it, up to its first status read (R114, R142). -/
theorem step_of_transferOf {s : State} {w : Word} {ws : List Word} {i : Instr} {rs : Bool} {b : Byte} {t : Tier}
    (hs : s.Ready) (hc : s.cfg.canRead = true) (hwf : s.cfg.wf = true) (hwords : s.words = w :: ws)
    (hdecode : decode w = .ok i) (hi : transferOf s.cfg i = some (rs, b, t)) :
    step s = .next (sendAll [⟨rs, b, t⟩] (accept w ws s)) := by
  have hexec := exec_of_transferOf (s := accept w ws s) hwf hi
  rw [step_of_idle hs.idle hs.calm hwords, runAccepted, accept_opr, hdecode]
  exact hexec.trans (runScript_transfers_poll _ ⟨hs.enLow, hs.rwLow, hs.calm⟩ hc)

/-- Settles O31: the first step sends the transfer up to its first status read, and its poll is left at the first ready one,
after which only the completion remains. -/
theorem transferCompletesAtTheFirstReadyStatusRead : Obligations.TransferCompletesAtTheFirstReadyStatusRead := by
  intro s i w ws rs b t busy ready later hs hc hwf hwords hdecode hi hbusy hready hdin
  have hsend : (accept w ws s).CanSend := ⟨hs.enLow, hs.rwLow, hs.calm⟩
  obtain ⟨u, hrun, hrest, hadds⟩ :=
    runSteps_sendAll_cons (x := ⟨rs, b, t⟩) (rest := []) hsend hc ⟨hbusy, hready⟩ hdin
  have hstep := step_of_transferOf hs hc hwf hwords hdecode hi
  refine ⟨completed u, (runSteps_succ _ hstep).trans hrun, rfl, rfl, rfl, hrest.din, hadds.host, hrest.rsLow,
    hrest.canSend.enLow, hrest.canSend.rwLow, hadds.latched, ?_⟩
  have hnew : (newEvents s (completed u)).length = u.trace.length - s.trace.length := List.length_drop
  rw [hnew, hadds.events]
  exact Nat.add_sub_cancel_left _ _

end Sys2Proof.Machine
end

section
/-! Infinite runs that never complete an operation (R23, R146, R218): the step that accepts it ends in a poll, and one busy
status byte is supplied before every later step. -/

namespace Sys2Proof.Machine

open Expect

/-- On a binding that can read, the step that accepts an operation with a transfer goes on to the poll of its first transfer
(R114, R130): from `u`, in which the word is accepted and no answer of the device has been used. -/
theorem step_of_transfer_or_init {s : State} {w : Word} {ws : List Word} {i : Instr} (hs : s.Ready)
    (hc : s.cfg.canRead = true) (hwf : s.cfg.wf = true) (hwords : s.words = w :: ws) (hdecode : decode w = .ok i)
    (hi : transferOf s.cfg i ≠ none ∨ ∃ n f, i = .init n f) :
    ∃ x rest u, step s = .next (sendAll (x :: rest) u) ∧ u.CanSend ∧ u.cfg = s.cfg ∧ u.din = s.din ∧ u.opr = w ∧
      u.done = false := by
  have haccepted : (accept w ws s).CanSend := ⟨hs.enLow, hs.rwLow, hs.calm⟩
  obtain hi | ⟨n, f, rfl⟩ := hi
  · obtain ⟨⟨rs, b, t⟩, hi⟩ := Option.ne_none_iff_exists'.mp hi
    exact ⟨_, _, _, step_of_transferOf hs hc hwf hwords hdecode hi, haccepted, rfl, rfl, rfl, rfl⟩
  · obtain ⟨x, rest, hxs⟩ : ∃ x rest, initTransfers s.cfg (Expect.functionSet s.cfg n f) = x :: rest := by
      unfold initTransfers
      split <;> exact ⟨_, _, rfl⟩
    refine ⟨x, rest, _, hxs ▸ step_of_init hs hc hwords hdecode, afterPreamble_canSend _ haccepted, rfl, rfl, rfl, rfl⟩

/-- `s` with the samples of one more status byte to come. -/
def answering (s : State) (v : Byte) : State := { s with din := s.din ++ answers s.cfg v }

/-- At reset, with one operation word and the samples of one status byte to come. -/
def issuing (c : Cfg) (w : Word) (v : Byte) : State := { State.resetWith c with host := [w], din := answers c v }

theorem issuing_ready (c : Cfg) (w : Word) (v : Byte) : (issuing c w v).Ready := ⟨rfl, rfl, rfl, rfl⟩

/-- After the `n`-th status read of a device that answers with the given bytes, all of them busy, `first` being the state
after the one before them. -/
def pollsOn (first : State) (busy : Nat → Byte) : Nat → State
  | 0 => first
  | n + 1 => stillPolling (answering (pollsOn first busy n) (busy (n + 1)))

/-- The run that begins at reset and whose first step ends in `first`. -/
def hangingRun (c : Cfg) (first : State) (busy : Nat → Byte) : Nat → State
  | 0 => State.resetWith c
  | n + 1 => pollsOn first busy n

/-- In the poll of the operation word `w` with the status byte `v` read last, and no answer of the device listed. -/
structure HeldBy (c : Cfg) (w : Word) (rest : List Xfer) (v : Byte) (s : State) : Prop where
  cfg : s.cfg = c
  inPoll : s.InPoll rest
  opr : s.opr = w
  sts : s.sts = some v
  done : s.done = false
  din : s.din = []

theorem supplied_answering {s : State} (h : s.upset = none) (v : Byte) : Supplied s (answering s v) :=
  ⟨[], answers s.cfg v, s.upset, by simp [answering], .inl h⟩

/-- One more busy status byte is one more step in the poll. -/
theorem HeldBy.read {c : Cfg} {w : Word} {rest : List Xfer} {u v : Byte} {s : State} (hs : HeldBy c w rest u s)
    (hv : v.getLsbD 7 = true) :
    step (answering s v) = .next (stillPolling (answering s v)) ∧
      HeldBy c w rest v (stillPolling (answering s v)) := by
  obtain ⟨hcfg, ⟨hpolling, hrs, hen, hrw, hreads, hcalm⟩, hopr, _, _, hdin⟩ := hs
  have hin : (answering s v).InPoll rest := ⟨hpolling, hrs, hen, hrw, hreads, hcalm⟩
  have hanswers : (answering s v).din = answers (answering s v).cfg v ++ [] := by simp [answering, hdin]
  obtain ⟨hbyte, hleft⟩ := statusByte_of_answers hanswers
  refine ⟨step_of_busy hin ((busyNext_of_answers hanswers).mpr hv), ?_⟩
  exact ⟨(answersRead_cfg _).trans hcfg, stillPolling_inPoll hin, (answersRead_opr _).trans hopr, congrArg some hbyte, rfl,
    hleft⟩

theorem pollsOn_heldBy {c : Cfg} {w : Word} {rest : List Xfer} {first : State} {busy : Nat → Byte}
    (hbusy : ∀ n, (busy n).getLsbD 7 = true) (hfirst : HeldBy c w rest (busy 0) first) (n : Nat) :
    HeldBy c w rest (busy n) (pollsOn first busy n) := by
  induction n with
  | zero => exact hfirst
  | succ n ih => exact (ih.read (hbusy (n + 1))).2

/-- From reset with the operation's word and the first busy status byte, the first step ends in the poll. -/
theorem first_step_heldBy {c : Cfg} {i : Instr} {v : Byte} (hwf : c.wf = true) (hc : c.canRead = true)
    (hi : transferOf c i ≠ none ∨ ∃ n f, i = .init n f) (hv : v.getLsbD 7 = true) :
    ∃ rest first, step (issuing c (encode i) v) = .next first ∧
      HeldBy c (encode i) rest v first := by
  obtain ⟨x, rest, u, hstep, hsend, hcfg, hdin, hopr, hdone⟩ := step_of_transfer_or_init
    (issuing_ready c (encode i) v) hc hwf (words_of_host rfl) (everyOperationDecodesFromItsWord i) hi
  have hanswers : u.din = answers u.cfg v ++ [] := by
    rw [hdin, hcfg, List.append_nil]
    rfl
  obtain ⟨hbyte, hleft⟩ := statusByte_of_answers hanswers
  rw [sendAll, if_pos ((busyNext_of_answers hanswers).mpr hv)] at hstep
  have hcfg' : (answersRead u).cfg = c := (answersRead_cfg u).trans hcfg
  exact ⟨rest, _, hstep, hcfg', ⟨rfl, rfl, rfl, rfl, (congrArg Cfg.canRead hcfg').trans hc,
    (answersRead_upset u).trans hsend.calm⟩, (answersRead_opr u).trans hopr, congrArg some hbyte,
    (answersRead_done u).trans hdone, hleft⟩

/-- Settles O58: the host issues the operation's word at first and nothing after it; the device answers one busy status byte
before each step, and every one of them is a read in the poll. -/
theorem everyTransferHasARunThatNeverCompletes : Obligations.EveryTransferHasARunThatNeverCompletes := by
  intro c i busy hwf hc hi hbusy
  obtain ⟨rest, first, hstep, hfirst⟩ := first_step_heldBy hwf hc hi (hbusy 0)
  have held := pollsOn_heldBy hbusy hfirst
  refine ⟨hangingRun c first busy, ⟨rfl, fun n => ?_⟩, fun n => ?_⟩
  · cases n with
    | zero => exact ⟨_, ⟨[encode i], answers c (busy 0), none, rfl, .inl rfl⟩, hstep⟩
    | succ n =>
      exact ⟨_, supplied_answering (held n).inPoll.calm _, ((held n).read (hbusy (n + 1))).1⟩
  · obtain ⟨_, hin, hopr, hsts, hdone, _⟩ := held n
    exact ⟨hopr, ⟨rest, hin⟩, hsts, hin.not_opReady, hdone, (driven_of_rwHigh hin.rwHigh).2⟩

end Sys2Proof.Machine
end

section
/-! The delays of a sequence (R140, R141, R147): the tier is that of the byte sent, a sequence that polls asks for the pulse
width only, and the preamble of INIT for its own delays first (R135). -/

namespace Sys2Proof.Machine

open Expect

/-! ### Every operation but INIT -/

/-- The tier of a transfer is the one of its command byte, and SHORT for a data byte (R147). -/
def Xfer.TierOfByte (x : Xfer) : Prop := x.tier = if x.rs then .short else tierOf x.byte

theorem tierOf_cgByte (addr6 : BitVec 6) : tierOf (cgByte addr6) = .short := by
  revert addr6
  decide

theorem tierOf_ddByte (addr7 : BitVec 7) : tierOf (ddByte addr7) = .short := by
  revert addr7
  decide

/-- An operation other than INIT fails, writes the backlight line, or is one transfer with the tier of its byte. -/
theorem exec_cases_of_ne_init {i : Instr} (hi : ∀ n f, i ≠ .init n f) (s : State) :
    (∃ st, st ≠ .ok ∧ exec i s = failWith st s) ∨
    (∃ on, i = .backlight on ∧ exec i s = runScript [.setBL on, .complete .ok] s) ∨
    ∃ x : Xfer, x.TierOfByte ∧ exec i s = runTransfers [x] s := by
  cases i with
  | clear => exact .inr (.inr ⟨cmd clearByte .long, rfl, rfl⟩)
  | home => exact .inr (.inr ⟨cmd homeByte .long, rfl, rfl⟩)
  | entry dir sh => exact .inr (.inr ⟨cmd (entryByte dir sh) .short, by cases dir <;> cases sh <;> rfl, rfl⟩)
  | display on cur blk =>
    exact .inr (.inr ⟨cmd (displayByte on cur blk) .short, by cases on <;> cases cur <;> cases blk <;> rfl, rfl⟩)
  | shift tgt rl => exact .inr (.inr ⟨cmd (shiftByte tgt rl) .short, by cases tgt <;> cases rl <;> rfl, rfl⟩)
  | setcg addr6 => exact .inr (.inr ⟨cmd (cgByte addr6) .short, (tierOf_cgByte addr6).symm, rfl⟩)
  | setdd addr7 => exact .inr (.inr ⟨cmd (ddByte addr7) .short, (tierOf_ddByte addr7).symm, rfl⟩)
  | write b => exact .inr (.inr ⟨data b, rfl, rfl⟩)
  | pos row col =>
    cases haddr : posAddress s.cfg row col with
    | none => exact .inl ⟨.invalidArgument, nofun, by simp [exec, execPos, haddr]⟩
    | some addr7 =>
      exact .inr (.inr ⟨cmd (ddByte addr7) .short, (tierOf_ddByte addr7).symm, by simp only [exec, execPos, haddr]⟩)
  | backlight on =>
    cases hline : s.cfg.hasBacklight with
    | false => exact .inl ⟨.illegalOperation, nofun, by simp [exec, execBacklight, hline]⟩
    | true => exact .inr (.inl ⟨on, rfl, by simp [exec, execBacklight, hline]⟩)
  | init n f => exact absurd rfl (hi n f)

/-! ### The tier of a transfer -/

/-- The write part of a transfer leaves its tier in `TIER` (log 18). -/
theorem writePart_tier (c : Cfg) (x : Xfer) (s : State) :
    (runPrims ([.loadTier x.tier] ++ rawByte c x.rs x.byte) s).tier = x.tier := by
  cases hw : c.busWidth <;> simp [rawByte, hw, raw8, raw4, pulse, delay, doPrim]

theorem newEvents_runPrims (ps : List Prim) (s : State) : newEvents s (runPrims ps s) = scriptEvents ps s := by
  simp [newEvents, runPrims_trace]

/-- An operation of one transfer with a fixed delay leaves its operands in the latches and on RS, and its tier's delay is
the last event (R114, R141). -/
theorem runTransfers_fixed_end {s t : State} {x : Xfer} (hu : s.upset = none) (hc : s.cfg.canRead = false)
    (h : runTransfers [x] s = .next t) :
    t.byte = x.byte ∧ t.pins.rs = x.rs ∧ t.tier = x.tier ∧
      (newEvents s t).getLast? = some (.dly (settle s.cfg x.tier)) := by
  obtain ⟨hbyte, hrs⟩ := writePart_fixed_byte s.cfg x s
  have htier := writePart_tier s.cfg x s
  rw [runTransfers, transfers, runScript_xfer_fixed hc _ _ _ hu, transfers, runScript_plain_cons rfl _ (runPrims_calm _ hu)]
    at h
  obtain rfl := Host.Outcome.next.inj h
  refine ⟨hbyte, hrs, by rw [runPrims_append]; exact htier, ?_⟩
  have hevents := newEvents_runPrims ([.loadTier x.tier] ++ rawByte s.cfg x.rs x.byte ++ [.requestTier, .await]) s
  rw [scriptEvents_append] at hevents
  refine (congrArg List.getLast? hevents).trans ?_
  simp only [scriptEvents, primEvents, List.append_nil, List.getLast?_concat, runPrims_cfg, htier, tierDelay_eq_settle]

/-- The long delay is that of the command bytes 0x01 and 0x02. -/
theorem settle_of_tierOfByte {x : Xfer} (hx : x.TierOfByte) (c : Cfg) :
    settle c x.tier = if x.rs = false ∧ (x.byte = 0x01 ∨ x.byte = 0x02) then c.tLong else c.tShort := by
  rw [hx]
  cases x.rs with
  | true => rfl
  | false =>
    rw [if_neg Bool.false_ne_true, tierOf]
    by_cases hlong : x.byte = 0x01 ∨ x.byte = 0x02
    · rw [if_pos hlong, if_pos ⟨rfl, hlong⟩]
      rfl
    · rw [if_neg hlong, if_neg (mt And.right hlong)]
      rfl

/-- Settles O53: with fixed delays an operation that completes with OK is one transfer with the tier of its byte, and that
tier's delay is its last event. -/
theorem theTierIsAFunctionOfTheCommandByte : Obligations.TheTierIsAFunctionOfTheCommandByte := by
  intro s t i hu hc _ hinit hlight h hok _
  obtain ⟨st, hst, hexec⟩ | ⟨on, rfl, _⟩ | ⟨x, hx, hexec⟩ := exec_cases_of_ne_init hinit s
  · obtain rfl := Host.Outcome.next.inj ((failWith_of_calm hu st).symm.trans (hexec.symm.trans h))
    exact absurd hok hst
  · exact absurd rfl (hlight on)
  · obtain ⟨hbyte, hrs, htier, hlast⟩ := runTransfers_fixed_end hu hc (hexec.symm.trans h)
    rw [hbyte, hrs, htier, hlast, settle_of_tierOfByte hx]
    exact ⟨rfl, fun hcmd => by rw [hx, hcmd]; rfl, fun hdata => by rw [hx, hdata]; rfl⟩

/-! ### The delays a sequence asks for -/

/-- A sequence that asks for no delay but the pulse width. -/
def PulseOnly (c : Cfg) (ps : List Prim) : Prop := Prim.requestTier ∉ ps ∧ ∀ n, Prim.request n ∈ ps → n = c.tPulse

theorem PulseOnly.append {c : Cfg} {ps qs : List Prim} (hps : PulseOnly c ps) (hqs : PulseOnly c qs) :
    PulseOnly c (ps ++ qs) := by
  refine ⟨by simp [hps.1, hqs.1], fun n hn => ?_⟩
  exact (List.mem_append.mp hn).elim (hps.2 n) (hqs.2 n)

theorem PulseOnly.of_prefix {c : Cfg} {ps qs : List Prim} (hqs : PulseOnly c qs) (h : ps <+: qs) : PulseOnly c ps :=
  ⟨fun hmem => hqs.1 (h.subset hmem), fun n hn => hqs.2 n (h.subset hn)⟩

theorem rawByte_pulseOnly (c : Cfg) (rs : Bool) (b : Byte) : PulseOnly c (rawByte c rs b) := by
  cases hw : c.busWidth <;> simp [PulseOnly, rawByte, hw, raw8, raw4, pulse, delay]

theorem pollLoop_pulseOnly (c : Cfg) (rest : List Xfer) : PulseOnly c (pollLoop c rest) := by
  cases hw : c.busWidth <;> simp [PulseOnly, pollLoop, readStatus, hw, readCyc, delay]

theorem fail_pulseOnly (c : Cfg) (st : Status) : PulseOnly c [.complete st] := by simp [PulseOnly]

/-- On a binding that can read a transfer ends in a poll and not in a tier's delay (R140). -/
theorem transfers_pulseOnly {c : Cfg} (hc : c.canRead = true) (xs : List Xfer) : PulseOnly c (transfers c xs) := by
  induction xs with
  | nil => exact fail_pulseOnly c .ok
  | cons x rest ih =>
    have hload : PulseOnly c [.loadTier x.tier] := by simp [PulseOnly]
    have henter : PulseOnly c [.setRS false, .setRW true] := by simp [PulseOnly]
    rw [transfers, xfer, sync, if_pos hc]
    exact ((hload.append (rawByte_pulseOnly c _ _)).append (henter.append (pollLoop_pulseOnly c rest))).append ih

theorem exec_runs_pulseOnly {s : State} (hc : s.cfg.canRead = true) {i : Instr} (hi : ∀ n f, i ≠ .init n f) :
    ∃ ps, PulseOnly s.cfg ps ∧ exec i s = runScript ps s := by
  obtain ⟨st, _, hexec⟩ | ⟨on, _, hexec⟩ | ⟨x, _, hexec⟩ := exec_cases_of_ne_init hi s
  · exact ⟨_, fail_pulseOnly _ st, hexec⟩
  · exact ⟨_, by simp [PulseOnly], hexec⟩
  · exact ⟨_, transfers_pulseOnly hc [x], hexec⟩

theorem runAccepted_runs_pulseOnly {s : State} (hc : s.cfg.canRead = true)
    (hinit : ∀ n f, decode s.opr ≠ .ok (.init n f)) : ∃ ps, PulseOnly s.cfg ps ∧ runAccepted s = runScript ps s := by
  unfold runAccepted
  split
  · rename_i i hdecode
    exact exec_runs_pulseOnly hc fun n f hi => hinit n f (hi ▸ hdecode)
  · exact ⟨_, fail_pulseOnly _ _, rfl⟩

/-- A delay is an event where a micro-step asked for it. -/
theorem request_of_dly_mem {ps : List Prim} {s : State} {n : Micros} (h : Event.dly n ∈ scriptEvents ps s) :
    Prim.requestTier ∈ ps ∨ Prim.request n ∈ ps := by
  induction ps generalizing s with
  | nil => simp [scriptEvents] at h
  | cons p ps ih =>
    obtain hp | hps := List.mem_append.mp h
    · cases p with
      | request m => simp_all [primEvents]
      | requestTier => simp
      | _ => simp [primEvents] at hp
    · exact (ih hps).imp (List.mem_cons_of_mem p) (List.mem_cons_of_mem p)

theorem PulseOnly.dly_eq {c : Cfg} {ps : List Prim} (hps : PulseOnly c ps) {s : State} {n : Micros}
    (h : Event.dly n ∈ scriptEvents ps s) : n = c.tPulse :=
  (request_of_dly_mem h).elim (fun htier => absurd htier hps.1) (hps.2 n)

/-- The new events of a run are those of a part of its sequence, whatever cuts it. -/
theorem runScript_newEvents {ps : List Prim} {s t : State} (h : runScript ps s = .next t) :
    ∃ pre, pre <+: ps ∧ newEvents s t = scriptEvents pre s := by
  obtain ⟨pre, hpre, ⟨q, rfl⟩ | ⟨_, rfl⟩⟩ := runScript_end h <;>
    exact ⟨pre, hpre, newEvents_runPrims pre s⟩

theorem PulseOnly.newEvents {c : Cfg} {ps : List Prim} (hps : PulseOnly c ps) {s t : State}
    (h : runScript ps s = .next t) {n : Micros} (hn : Event.dly n ∈ newEvents s t) : n = c.tPulse := by
  obtain ⟨pre, hpre, hevents⟩ := runScript_newEvents h
  exact (hps.of_prefix hpre).dly_eq (hevents ▸ hn)

/-- Outside INIT a step on a binding that can read asks for the pulse width only. -/
theorem step_dly_eq_of_canRead {s t : State} (hc : s.cfg.canRead = true) (h : step s = .next t) (hinit : ¬ AcceptsInit s)
    {n : Micros} (hn : Event.dly n ∈ newEvents s t) : n = s.cfg.tPulse := by
  obtain ⟨_, rfl⟩ | ⟨_, _, rfl⟩ | ⟨rest, _, hresume⟩ | ⟨w, ws, hidle, hwords, hrun⟩ := step_next_cases h
  · simp [newEvents] at hn
  · simp [newEvents] at hn
  · have hscript := (pollLoop_pulseOnly s.cfg rest).append (transfers_pulseOnly hc rest)
    exact hscript.newEvents (s := clearDone s) hresume hn
  · rw [acceptsInit_iff hidle hwords] at hinit
    obtain ⟨ps, hps, heq⟩ := runAccepted_runs_pulseOnly (s := accept w ws s) hc fun n f hd => hinit ⟨n, f, hd⟩
    exact hps.newEvents (s := accept w ws s) (heq ▸ hrun) hn

/-! ### INIT -/

/-- The micro-steps of the preamble on either bus width (R132, R133). -/
def preamblePrims (c : Cfg) (fs : Byte) : List Prim :=
  match c.busWidth with
  | .eight => preamble8 c fs
  | .four => preamble4 c fs

theorem preamblePrims_plain (c : Cfg) (fs : Byte) : (preamblePrims c fs).all Prim.plain = true := by
  unfold preamblePrims
  split
  · exact preamble8_plain c fs
  · exact preamble4_plain c fs

/-- In every state the preamble has the same events (R132, R133, R135). -/
theorem scriptEvents_preamblePrims (c : Cfg) (fs : Byte) (s : State) :
    scriptEvents (preamblePrims c fs) s = preamble c fs := by
  cases hw : c.busWidth with
  | eight =>
    simp [preamblePrims, hw, preamble8, raw8, pulse, delay, scriptEvents, primEvents, doPrim, preamble, preambleWrite,
      Expect.pulse]
  | four =>
    have hnibble : (lowNibble ((highNibble fs).setWidth 8)).setWidth 8 = high fs := by revert fs; decide
    simp [preamblePrims, hw, preamble4, rawNib, pulse, delay, scriptEvents, primEvents, doPrim, preamble, preambleWrite,
      Expect.pulse, hnibble]

/-- INIT is its preamble, then its transfers, in every state (R130). -/
theorem exec_init_eq_runScript (n f : Bool) (s : State) :
    exec (.init n f) s =
      runScript (preamblePrims s.cfg (Expect.functionSet s.cfg n f)
        ++ transfers s.cfg (initTransfers s.cfg (Expect.functionSet s.cfg n f))) s := by
  rw [exec, execInit, functionSet_eq_expect]
  unfold preamblePrims initTransfers
  cases s.cfg.busWidth <;> rfl

/-- After the events of its first part, a sequence asks for no more than its second part does. -/
theorem dly_eq_of_drop {c : Cfg} {ps qs : List Prim} (hqs : PulseOnly c qs) {s t : State}
    (h : runScript (ps ++ qs) s = .next t) {n : Micros}
    (hn : Event.dly n ∈ (newEvents s t).drop (scriptEvents ps s).length) : n = c.tPulse := by
  obtain ⟨pre, hpre, hevents⟩ := runScript_newEvents h
  rw [hevents] at hn
  obtain ⟨tail, rfl⟩ | ⟨tail, rfl⟩ := List.prefix_or_prefix_of_prefix hpre (List.prefix_append ps qs)
  · rw [scriptEvents_append, List.drop_eq_nil_of_le (by simp)] at hn
    cases hn
  · rw [scriptEvents_append, List.drop_left] at hn
    exact (hqs.of_prefix ((List.prefix_append_right_inj ps).mp hpre)).dly_eq hn

/-- With nothing out of turn a first part without an exit test runs to its end, so the new events begin with its own. -/
theorem scriptEvents_prefix_newEvents {ps qs : List Prim} (hps : ps.all Prim.plain = true) {s t : State}
    (hu : s.upset = none) (h : runScript (ps ++ qs) s = .next t) : scriptEvents ps s <+: newEvents s t := by
  rw [runScript_plain_append hps _ hu] at h
  obtain ⟨es, htrace, _⟩ := runScript_records (runPrims_calm ps hu) h
  exact ⟨es, by simp [newEvents, htrace, runPrims_trace]⟩

/-- Settles O42: sequences that poll ask for the pulse width only, and INIT is its preamble, then such a sequence. -/
theorem aPollingBindingAsksForNoTierDelay : Obligations.APollingBindingAsksForNoTierDelay := by
  intro s t hc
  refine ⟨fun h hinit n hn => step_dly_eq_of_canRead hc h hinit hn, fun i hi h n hn => ?_, fun l f h => ?_⟩
  · obtain ⟨ps, hps, hexec⟩ := exec_runs_pulseOnly hc hi
    exact hps.newEvents (hexec ▸ h) hn
  · rw [exec_init_eq_runScript] at h
    have hevents := scriptEvents_preamblePrims s.cfg (Expect.functionSet s.cfg l f) s
    rw [← hevents]
    exact ⟨fun n hn => dly_eq_of_drop (transfers_pulseOnly hc _) h hn,
      fun hu => scriptEvents_prefix_newEvents (preamblePrims_plain _ _) hu h⟩

end Sys2Proof.Machine
end

section
/-! One transfer as a whole operation (R150), the operation words as numbers (R80, R97), and the words that an operand makes
illegal (R93): what the operations of spec/43 have in common. -/

namespace Sys2Proof.Machine

open Expect

/-! ### One transfer -/

/-- An operation of one transfer, on every binding (R140 to R142, R150). -/
theorem runTransfers_oneTransfer {s : State} (x : Xfer) (hs : s.CanSend) :
    OneTransfer (runTransfers [x] s) s x.rs x.byte x.tier := by
  refine ⟨fun hc => runScript_transfers_fixed [x] hs hc, fun hc hready => ?_, fun hc hbusy => ?_⟩
  · exact (runScript_transfers_poll [x] hs hc).trans (congrArg _ (if_neg hready))
  · exact (runScript_transfers_poll [x] hs hc).trans (congrArg _ (if_pos hbusy))

/-- An operation of one command byte, the byte said in the arithmetic of the statements. -/
theorem runTransfers_cmd {s : State} {b b' : Byte} (hb : b = b') (t : Tier) (hs : s.CanSend) :
    OneTransfer (runTransfers [cmd b t] s) s false b' t :=
  hb ▸ runTransfers_oneTransfer (cmd b t) hs

theorem entryByte_eq_ofNat (dir sh : Bool) : entryByte dir sh = BitVec.ofNat 8 (0x04 + 2 * bit dir + bit sh) := by
  cases dir <;> cases sh <;> rfl

theorem displayByte_eq_ofNat (on cur blk : Bool) :
    displayByte on cur blk = BitVec.ofNat 8 (0x08 + 4 * bit on + 2 * bit cur + bit blk) := by
  cases on <;> cases cur <;> cases blk <;> rfl

theorem shiftByte_eq_ofNat (tgt rl : Bool) : shiftByte tgt rl = BitVec.ofNat 8 (0x10 + 8 * bit tgt + 4 * bit rl) := by
  cases tgt <;> cases rl <;> rfl

/-! ### Completions and single events -/

/-- In an idle LCDC with nothing out of turn a completion changes the status and `done` only (R186, R187). -/
theorem failWith_of_idle {s : State} (hidle : s.seq = .idle) (hcalm : s.upset = none) (st : Status) :
    failWith st s = .next { s with status := st, done := true } := by
  rw [failWith_of_calm hcalm]
  simp [complete, hidle]

theorem posAddress_of_outOfRange {c : Cfg} {row : Nibble} {col : Byte} (h : c.rows ≤ row.toNat ∨ c.cols ≤ col.toNat) :
    posAddress c row col = none := if_pos h

theorem exec_pos_of_outOfRange {s : State} {row : Nibble} {col : Byte}
    (h : s.cfg.rows ≤ row.toNat ∨ s.cfg.cols ≤ col.toNat) : exec (.pos row col) s = failWith .invalidArgument s := by
  simp only [exec, execPos, posAddress_of_outOfRange h]

theorem exec_backlight_of_line {s : State} (hs : s.Ready) (hline : s.cfg.hasBacklight = true) (on : Bool) :
    exec (.backlight on) s = .next
      { s with pins := { s.pins with bl := on }, status := .ok, done := true, trace := s.trace ++ [.bl on] } := by
  have hexec : exec (.backlight on) s = runScript [.setBL on, .complete .ok] s := if_pos hline
  rw [hexec, runScript_plain_cons rfl _ hs.calm]
  refine (failWith_of_idle (s := doPrim (.setBL on) s) hs.idle (doPrim_calm _ hs.calm) .ok).trans ?_
  simp [doPrim, setBL, emit, hs.calm]

/-! ### Operation words as numbers -/

theorem encode_toNat (i : Instr) :
    (encode i).toNat = 0x1000 * i.opc.toNat + 0x100 * i.fieldA.toNat + i.fieldB.toNat := by
  have hopc := opcField_toNat (encode i)
  have ha := aField_toNat (encode i)
  have hb := bField_toNat (encode i)
  rw [encode] at hopc ha hb ⊢
  rw [opcField_mkWord] at hopc
  rw [aField_mkWord] at ha
  rw [bField_mkWord] at hb
  omega

theorem encode_setcg_toNat (addr6 : BitVec 6) : (encode (.setcg addr6)).toNat = 0x7000 + addr6.toNat := by
  rw [encode_toNat, Instr.fieldB, BitVec.toNat_setWidth_of_le (by decide)]
  rfl

theorem encode_setdd_toNat (addr7 : BitVec 7) : (encode (.setdd addr7)).toNat = 0x8000 + addr7.toNat := by
  rw [encode_toNat, Instr.fieldB, BitVec.toNat_setWidth_of_le (by decide)]
  rfl

/-! ### Words with an operand that is not allowed -/

/-- The operand checks 3 and 4 of R93, outside POS: a word that fails one is rejected. -/
theorem rejected_of_operand {s : State} {w : Word} {code : Nat} (hs : s.Ready) (hcode : opcOf w = code) (hpos : code ≠ 9)
    (h : aOf w ≠ 0 ∨ bOf w &&& reservedBits.getD code 0 ≠ 0) : Rejected s w := by
  subst hcode
  refine illegalWordCompletesWithNoEffect s w hs.idle hs.calm ?_
  rintro ⟨_, _, ha, hb⟩
  exact h.elim (fun hne => hne (ha hpos)) (fun hne => hne hb)

/-- Check 2 of R93: without the BL line every word of BACKLIGHT's code is rejected. -/
theorem rejected_of_noLine {s : State} {w : Word} (hs : s.Ready) (hcode : opcOf w = 11)
    (hline : s.cfg.hasBacklight = false) : Rejected s w := by
  refine illegalWordCompletesWithNoEffect s w hs.idle hs.calm ?_
  rintro ⟨_, hlegal, _, _⟩
  exact Bool.false_ne_true (hline.symm.trans (hlegal hcode))

/-- A byte with a bit at position `k` or above is not 0 under the mask of these bits. -/
theorem and_highMask_ne_zero {b : Nat} (k : Nat) (hk : k ≤ 8) (hb : b < 2 ^ 8) (h : b / 2 ^ k ≠ 0) :
    b &&& (2 ^ 8 - 2 ^ k) ≠ 0 := by
  intro hzero
  have hmask : (2 ^ 8 - 2 ^ k) >>> k = 2 ^ (8 - k) - 1 := by interval_cases k <;> rfl
  have hlt : b / 2 ^ k < 2 ^ (8 - k) := by
    apply Nat.div_lt_of_lt_mul
    rwa [← Nat.pow_add, Nat.add_sub_cancel' hk]
  apply h
  calc b / 2 ^ k = (b >>> k) % 2 ^ (8 - k) := by rw [Nat.shiftRight_eq_div_pow, Nat.mod_eq_of_lt hlt]
    _ = (b &&& (2 ^ 8 - 2 ^ k)) >>> k := by
      rw [Nat.shiftRight_and_distrib, hmask, Nat.and_two_pow_sub_one_eq_mod]
    _ = 0 := by rw [hzero, Nat.zero_shiftRight]

/-- Where the bits of operand B from `k` on are reserved, a word with one of them set, or with operand A, is rejected. -/
theorem rejected_of_highBits {s : State} {w : Word} {code : Nat} (k : Nat) (hs : s.Ready) (hcode : opcOf w = code)
    (hpos : code ≠ 9) (hk : k ≤ 8) (hmask : reservedBits.getD code 0 = 2 ^ 8 - 2 ^ k)
    (h : aOf w ≠ 0 ∨ bOf w / 2 ^ k ≠ 0) : Rejected s w := by
  refine rejected_of_operand hs hcode hpos (h.imp_right fun hb => ?_)
  rw [hmask]
  exact and_highMask_ne_zero k hk (Nat.mod_lt _ (by decide)) hb

/-- The same where all of operand B is reserved. -/
theorem rejected_of_anyBit {s : State} {w : Word} {code : Nat} (hs : s.Ready) (hcode : opcOf w = code) (hpos : code ≠ 9)
    (hmask : reservedBits.getD code 0 = 0xFF) (h : aOf w ≠ 0 ∨ bOf w ≠ 0) : Rejected s w :=
  rejected_of_highBits 0 hs hcode hpos (by decide) hmask (by rwa [Nat.pow_zero, Nat.div_one])

/-- Every word of POS's code decodes to it (R158): it has no reserved bit. -/
theorem decode_of_posCode {w : Word} (hcode : opcOf w = 9) : decode w = .ok (.pos (aField w) (bField w)) := by
  have hopc : opcField w = 9 := BitVec.eq_of_toNat_eq ((opcField_toNat w).trans hcode)
  rw [decode_eq_ok, hopc]
  exact ⟨⟨0, rfl, BitVec.and_zero⟩, fun hne => absurd rfl hne, rfl⟩

end Sys2Proof.Machine
end

section
/-! The command operations of spec/43 (R151 to R161): each one's word, what it sends, and its rejected words; and WRITESTR
(R98, R160). -/

namespace Sys2Proof.Machine

open Expect

/-- Settles O14: each is one command write with the long tier, and operand B is reserved as a whole. -/
theorem clearAndHomeSendOneCommandWithTheLongTier : Obligations.ClearAndHomeSendOneCommandWithTheLongTier := by
  refine fun s hs => ⟨⟨rfl, ?_, fun w hcode => ?_⟩, rfl, ?_, fun w hcode => ?_⟩
  · exact runTransfers_oneTransfer (cmd clearByte .long) hs.canSend
  · exact rejected_of_anyBit hs hcode (by decide) rfl
  · exact runTransfers_oneTransfer (cmd homeByte .long) hs.canSend
  · exact rejected_of_anyBit hs hcode (by decide) rfl

/-- Settles O15: one command write, and the bits of operand B from 2 on are reserved. -/
theorem entrySendsTheEntryModeByte : Obligations.EntrySendsTheEntryModeByte := by
  refine fun s hs => ⟨fun dir sh => ⟨?_, ?_⟩, fun w hcode => ?_⟩
  · cases dir <;> cases sh <;> rfl
  · exact runTransfers_cmd (entryByte_eq_ofNat dir sh) .short hs.canSend
  · exact rejected_of_highBits 2 hs hcode (by decide) (by decide) rfl

/-- Settles O16: one command write, and the bits of operand B from 3 on are reserved. -/
theorem displaySendsTheDisplayControlByte : Obligations.DisplaySendsTheDisplayControlByte := by
  refine fun s hs => ⟨fun on cur blk => ⟨?_, ?_⟩, fun w hcode => ?_⟩
  · cases on <;> cases cur <;> cases blk <;> rfl
  · exact runTransfers_cmd (displayByte_eq_ofNat on cur blk) .short hs.canSend
  · exact rejected_of_highBits 3 hs hcode (by decide) (by decide) rfl

/-- Settles O17: one command write, and all bits of operand B but 3 and 2 are reserved. -/
theorem shiftSendsTheShiftByte : Obligations.ShiftSendsTheShiftByte := by
  refine fun s hs => ⟨fun tgt rl => ⟨?_, ?_⟩, fun w hcode => ?_⟩
  · cases tgt <;> cases rl <;> rfl
  · exact runTransfers_cmd (shiftByte_eq_ofNat tgt rl) .short hs.canSend
  · exact rejected_of_operand hs hcode (by decide)

/-- Settles O18: each is one command write of its address, and the bits of operand B above the address are reserved. -/
theorem addressOperationsSendTheirAddressUnchecked : Obligations.AddressOperationsSendTheirAddressUnchecked := by
  refine fun s hs => ⟨fun a => ⟨encode_setcg_toNat a, ?_⟩, fun w hcode => ?_, fun a => ⟨encode_setdd_toNat a, ?_⟩,
    fun w hcode => ?_⟩
  · exact runTransfers_cmd (cgByte_eq a) .short hs.canSend
  · exact rejected_of_highBits 6 hs hcode (by decide) (by decide) rfl
  · exact runTransfers_cmd (ddByte_eq a) .short hs.canSend
  · exact rejected_of_highBits 7 hs hcode (by decide) (by decide) rfl

/-- Settles O19: in range it is one command write of the address, which does not wrap (O20); out of range it fails before
every event. -/
theorem posSendsTheDdramAddressOrFails : Obligations.PosSendsTheDdramAddressOrFails := by
  refine fun s row col hs hwf => ⟨encode_toNat (.pos row col), fun w hcode => ?_, fun hrow hcol => ?_, fun hout => ?_⟩
  · exact ⟨aField w, bField w, decode_of_posCode hcode, aField_toNat w, bField_toNat w⟩
  · rw [exec_of_transferOf (i := .pos row col) (rs := false) (t := .short) hwf (if_pos ⟨hrow, hcol⟩)]
    exact runTransfers_oneTransfer _ hs.canSend
  · rw [exec_pos_of_outOfRange hout, failWith_of_idle hs.idle hs.calm]

theorem exec_write_oneTransfer {s : State} (b : Byte) (hs : s.CanSend) : OneTransfer (exec (.write b) s) s true b .short :=
  runTransfers_oneTransfer (data b) hs

/-- Settles O21: one data write; operand B has no reserved bit. -/
theorem writeSendsItsByteAsData : Obligations.WriteSendsItsByteAsData := by
  refine fun s hs => ⟨fun b => ⟨encode_toNat (.write b), ?_, exec_write_oneTransfer b hs.canSend⟩, fun w hcode ha => ?_⟩
  · exact everyOperationDecodesFromItsWord (.write b)
  · exact rejected_of_operand hs hcode (by decide) (.inl ha)

/-- Settles O22: with the line one write of BL and the completion, without it the error completion; the bits of operand B
from 1 on are reserved. -/
theorem backlightWritesItsLineAndNothingElse : Obligations.BacklightWritesItsLineAndNothingElse := by
  refine fun s hs => ⟨fun on => ⟨?_, fun hline => exec_backlight_of_line hs hline on, fun hline => ?_⟩, fun w hcode h => ?_⟩
  · cases on <;> rfl
  · rw [exec_of_not_wf (by simp [Instr.wf, hline]), failWith_of_idle hs.idle hs.calm]
  · obtain hline | hoperand := h
    · exact rejected_of_noLine hs hcode hline
    · exact rejected_of_highBits 1 hs hcode (by decide) (by decide) rfl hoperand

/-! ### WRITESTR -/

/-- With fixed delays the step that accepts a WRITE sends its byte and completes (R159, R141). -/
theorem step_of_write_fixed {s : State} {b : Byte} {ws : List Word} (hs : s.Ready) (hc : s.cfg.canRead = false)
    (hhost : s.host = encode (.write b) :: ws) :
    step s = .next (sentFixed (accept (encode (.write b)) ws s) true b .short) := by
  have hsend : (accept (encode (.write b)) ws s).CanSend := ⟨hs.enLow, hs.rwLow, hs.calm⟩
  have hrst : s.upset ≠ some (0, .rst) := by simp [hs.calm]
  rw [stepRunsTheDecodedOperation s _ ws _ hs.idle (words_of_host hhost) hrst (everyOperationDecodesFromItsWord (.write b))]
  exact (exec_write_oneTransfer b hsend).1 hc

/-- Settles O54: by induction on the string, each of whose characters is one step that sends it. -/
theorem writeStringIsOneDataTransferPerCharacter : Obligations.WriteStringIsOneDataTransferPerCharacter := by
  intro chars
  induction chars with
  | nil => exact fun s ws hs _ hhost => ⟨s, rfl, hhost, hs, (List.append_nil _).symm, (List.append_nil _).symm⟩
  | cons b chars ih =>
    intro s ws hs hc hhost
    have hstep := step_of_write_fixed hs hc hhost
    obtain ⟨t, hrun, hleft, hready, hlatched, htrace⟩ :=
      ih (sentFixed (accept (encode (.write b)) (writeStr chars ++ ws) s) true b .short) ws ⟨rfl, rfl, rfl, hs.calm⟩ hc rfl
    refine ⟨t, (runSteps_succ _ hstep).trans hrun, hleft, hready, ?_, ?_⟩
    · rw [hlatched, List.flatMap_cons, ← List.append_assoc]
      rfl
    · rw [htrace, List.flatMap_cons, ← List.append_assoc, ← List.append_assoc]
      rfl

end Sys2Proof.Machine
end

section
/-! How operations end and what they cannot do (R180 to R190): the status that an operation completes with, that an error
completion is nothing but the completion, which delays a step asks for, and who writes the backlight line. -/

namespace Sys2Proof.Machine

open Expect

/-! ### The micro-steps of transfers -/

/-- The timing parameters (R10) that LCDC asks for: all but the host's `T_POWERON`. -/
def timingParameters (c : Cfg) : List Micros := [c.tPulse, c.tShort, c.tLong, c.tInit1, c.tInit2, c.tInit3]

/-- A micro-step as transfers and the preamble of INIT have them: it does not write BL (R190), a number of microseconds it
asks for is a timing parameter (R189), and a completion it makes is one with `OK` (R150). -/
def Prim.ofTransfer (c : Cfg) : Prim → Bool
  | .setBL _ => false
  | .request n => (timingParameters c).contains n
  | .complete st => st == .ok
  | _ => true

theorem rawByte_ofTransfer (c : Cfg) (rs : Bool) (b : Byte) : (rawByte c rs b).all (Prim.ofTransfer c) = true := by
  cases hw : c.busWidth <;> simp [rawByte, hw, raw8, raw4, pulse, delay, Prim.ofTransfer, timingParameters]

theorem pollLoop_ofTransfer (c : Cfg) (rest : List Xfer) : (pollLoop c rest).all (Prim.ofTransfer c) = true := by
  cases hw : c.busWidth <;> simp [pollLoop, readStatus, hw, readCyc, delay, Prim.ofTransfer, timingParameters]

theorem sync_ofTransfer (c : Cfg) (rest : List Xfer) : (sync c rest).all (Prim.ofTransfer c) = true := by
  cases hc : c.canRead with
  | false => simp [sync, hc, Prim.ofTransfer]
  | true =>
    have hloop := pollLoop_ofTransfer c rest
    simpa [sync, hc, busyPoll, Prim.ofTransfer] using hloop

theorem transfers_ofTransfer (c : Cfg) (xs : List Xfer) : (transfers c xs).all (Prim.ofTransfer c) = true := by
  induction xs with
  | nil => rfl
  | cons x rest ih =>
    simp only [transfers, xfer, List.all_append, rawByte_ofTransfer, sync_ofTransfer, ih]
    rfl

theorem preamblePrims_ofTransfer (c : Cfg) (fs : Byte) : (preamblePrims c fs).all (Prim.ofTransfer c) = true := by
  cases hw : c.busWidth <;>
    simp [preamblePrims, hw, preamble8, preamble4, raw8, rawNib, pulse, delay, Prim.ofTransfer, timingParameters]

/-! ### The status of a completion -/

/-- The status that an operation completes with on a binding (R180 to R182). -/
def completionStatus (c : Cfg) : Instr → Status
  | .pos row col => if posAddress c row col = none then .invalidArgument else .ok
  | .backlight _ => if c.hasBacklight then .ok else .illegalOperation
  | _ => .ok

/-- Everything an operation can be: an error completion and nothing else (R186), the write of the backlight line (R161), or
transfers, after the preamble where it is INIT (R130, R150). -/
theorem exec_cases (i : Instr) (s : State) :
    (completionStatus s.cfg i ≠ .ok ∧ exec i s = failWith (completionStatus s.cfg i) s) ∨
    (completionStatus s.cfg i = .ok ∧ ∃ on, i = .backlight on ∧ exec i s = runScript [.setBL on, .complete .ok] s) ∨
    (completionStatus s.cfg i = .ok ∧ ∃ ps, ps.all (Prim.ofTransfer s.cfg) = true ∧ exec i s = runScript ps s) := by
  cases i with
  | init n f =>
    refine .inr (.inr ⟨rfl, _, ?_, exec_init_eq_runScript n f s⟩)
    rw [List.all_append, preamblePrims_ofTransfer, transfers_ofTransfer]
    rfl
  | pos row col =>
    cases haddr : posAddress s.cfg row col with
    | none => exact .inl (by simp [completionStatus, exec, execPos, haddr])
    | some addr7 =>
      refine .inr (.inr ⟨by simp [completionStatus, haddr], _, transfers_ofTransfer _ [cmd (ddByte addr7) .short], ?_⟩)
      simp only [exec, execPos, haddr, runTransfers]
  | backlight on =>
    cases hline : s.cfg.hasBacklight with
    | false => exact .inl (by simp [completionStatus, exec, execBacklight, hline])
    | true => exact .inr (.inl (by simp [completionStatus, exec, execBacklight, hline]))
  | _ => exact .inr (.inr ⟨rfl, _, transfers_ofTransfer _ [_], rfl⟩)

/-- No completion but one with `OK` is signalled. -/
def State.OkIfDone (s : State) : Prop := s.done = true → s.status = .ok

theorem doPrim_okIfDone {c : Cfg} {p : Prim} {s : State} (hp : p.ofTransfer c = true) (hs : s.OkIfDone) :
    (doPrim p s).OkIfDone := by
  cases p with
  | complete st => exact fun _ => eq_of_beq hp
  | _ => simpa [State.OkIfDone, doPrim, sampleByte, sampleHigh, sampleLow] using hs

theorem runPrims_okIfDone {c : Cfg} {ps : List Prim} {s : State} (hps : ps.all (Prim.ofTransfer c) = true)
    (hs : s.OkIfDone) : (runPrims ps s).OkIfDone := by
  induction ps generalizing s with
  | nil => exact hs
  | cons p ps ih =>
    simp only [List.all_cons, Bool.and_eq_true] at hps
    exact ih hps.2 (doPrim_okIfDone hps.1 hs)

theorem runScript_okIfDone {c : Cfg} {ps : List Prim} {s t : State} (hps : ps.all (Prim.ofTransfer c) = true)
    (hs : s.OkIfDone) (h : runScript ps s = .next t) : t.OkIfDone := by
  obtain ⟨pre, hpre, ⟨q, rfl⟩ | ⟨_, rfl⟩⟩ := runScript_end h
  · exact runPrims_okIfDone (all_of_prefix hpre hps) hs
  · exact nofun

/-- An operation that completes in its first step does so with its `completionStatus`. -/
theorem status_of_exec {i : Instr} {s t : State} (hu : s.upset = none) (hdone : s.done = false)
    (h : exec i s = .next t) (ht : t.done = true) : t.status = completionStatus s.cfg i := by
  have hs : s.OkIfDone := fun hd => absurd (hdone.symm.trans hd) Bool.false_ne_true
  obtain ⟨_, hfail⟩ | ⟨hok, on, rfl, hlight⟩ | ⟨hok, ps, hps, hrun⟩ := exec_cases i s
  · obtain rfl := Host.Outcome.next.inj ((failWith_of_calm hu _).symm.trans (hfail.symm.trans h))
    rfl
  · rw [hlight, runScript_plain_cons rfl _ hu] at h
    rw [hok]
    exact runScript_okIfDone (c := s.cfg) rfl (s := setBL on s) hs h ht
  · rw [hok]
    exact runScript_okIfDone hps hs (hrun.symm.trans h) ht

theorem completionStatus_eq_illegalOperation {c : Cfg} {i : Instr} :
    completionStatus c i = .illegalOperation ↔ ∃ on, i = .backlight on ∧ c.hasBacklight = false := by
  cases i with
  | pos row col => cases haddr : posAddress c row col <;> simp [completionStatus, haddr]
  | backlight on => simp [completionStatus]
  | _ => simp [completionStatus]

/-- On a legal configuration every row and column in range has its address (R51). -/
theorem posAddress_eq_none {c : Cfg} (hwf : c.wf = true) {row : Nibble} {col : Byte} :
    posAddress c row col = none ↔ c.rows ≤ row.toNat ∨ c.cols ≤ col.toNat := by
  refine ⟨fun hnone => ?_, posAddress_of_outOfRange⟩
  by_contra hin
  rw [not_or, not_le, not_le] at hin
  obtain ⟨addr7, haddr, _⟩ := posAddressNeverWraps c row col hwf hin.1 hin.2
  simp [hnone] at haddr

theorem completionStatus_eq_invalidArgument {c : Cfg} (hwf : c.wf = true) {i : Instr} :
    completionStatus c i = .invalidArgument ↔
      ∃ row col, i = .pos row col ∧ (c.rows ≤ row.toNat ∨ c.cols ≤ col.toNat) := by
  cases i with
  | pos row col => simp [completionStatus, posAddress_eq_none hwf, or_iff_not_imp_left]
  | backlight on => cases hline : c.hasBacklight <;> simp [completionStatus, hline]
  | _ => simp [completionStatus]

/-- Settles O46: the status is that of the operation, and POS has an address exactly in range. -/
theorem whichOperationsCompleteWithAnError : Obligations.WhichOperationsCompleteWithAnError := by
  intro s t i hwf hu hdone h ht
  rw [status_of_exec hu hdone h ht]
  exact ⟨completionStatus_eq_invalidArgument hwf, completionStatus_eq_illegalOperation⟩

/-! ### Accepted words -/

/-- Settles O11: a word that fails a check is rejected; any other is an operation that the binding has, whose status is not
`ILLEGAL_OPERATION`. -/
theorem illegalOperationIsExactlyAFailedDecodeCheck : Obligations.IllegalOperationIsExactlyAFailedDecodeCheck := by
  intro s t w ws hs hwords h ht
  rw [step_of_idle hs.idle hs.calm hwords] at h
  by_cases hlegal : Legal s.cfg w
  · obtain ⟨i, hdecode, hwf⟩ := (legalWordsAreExactlyTheDecodedOnes s.cfg w).mp hlegal
    have hexec : exec i (accept w ws s) = .next t := by simpa [runAccepted, hdecode] using h
    refine iff_of_false (fun hst => ?_) (not_not_intro hlegal)
    rw [status_of_exec (s := accept w ws s) hs.calm rfl hexec ht, completionStatus_eq_illegalOperation] at hst
    obtain ⟨on, rfl, hline⟩ := hst
    exact Bool.false_ne_true (hline.symm.trans hwf)
  · rw [runAccepted_of_not_legal (s := accept w ws s) hlegal, failWith_of_calm (s := accept w ws s) hs.calm] at h
    obtain rfl := Host.Outcome.next.inj h
    exact iff_of_true rfl hlegal

/-- A word that completes with an error status has no other effect than the completion (R186). -/
theorem runAccepted_of_error {s t : State} (hu : s.upset = none) (hdone : s.done = false)
    (h : runAccepted s = .next t) (ht : t.done = true) (herror : t.status ≠ .ok) : t = complete t.status s := by
  have hfailed : ∀ st, failWith st s = .next t → t = complete t.status s := by
    intro st hfail
    obtain rfl := Host.Outcome.next.inj ((failWith_of_calm hu st).symm.trans hfail)
    rfl
  unfold runAccepted at h
  split at h
  · rename_i i _
    rw [status_of_exec hu hdone h ht] at herror
    obtain ⟨_, hfail⟩ | ⟨hok, _⟩ | ⟨hok, _⟩ := exec_cases i s
    · exact hfailed _ (hfail.symm.trans h)
    · exact absurd hok herror
    · exact absurd hok herror
  · exact hfailed _ h

/-- Settles O45: the step accepts the word, and the completion does nothing else. -/
theorem anErrorCompletionChangesNothingElse : Obligations.AnErrorCompletionChangesNothingElse := by
  intro s t w ws hidle hu hwords h ht herror
  rw [step_of_idle hidle hu hwords] at h
  have hcomplete := runAccepted_of_error (s := accept w ws s) hu rfl h ht herror
  have hseq : t.seq = .idle := hcomplete ▸ rfl
  refine ⟨hcomplete.trans ?_, decide_eq_true hseq⟩
  simp [complete, accept, hidle]

/-! ### Delays -/

/-- A sequence that asks for no number of microseconds but the timing parameters. -/
def Timed (c : Cfg) (ps : List Prim) : Prop := ∀ n, Prim.request n ∈ ps → n ∈ timingParameters c

theorem Timed.of_prefix {c : Cfg} {ps qs : List Prim} (hqs : Timed c qs) (h : ps <+: qs) : Timed c ps :=
  fun n hn => hqs n (h.subset hn)

theorem timed_of_ofTransfer {c : Cfg} {ps : List Prim} (hps : ps.all (Prim.ofTransfer c) = true) : Timed c ps :=
  fun _ hn => List.contains_iff_mem.mp (List.all_eq_true.mp hps _ hn)

theorem tierDelay_mem (c : Cfg) (tier : Tier) : tierDelay c tier ∈ timingParameters c := by
  cases tier <;> simp [tierDelay, timingParameters]

/-- A delay is a number of microseconds that the sequence asks for, or that of the latched tier (R141). -/
theorem Timed.dly_mem {ps : List Prim} {s : State} (hps : Timed s.cfg ps) {n : Micros}
    (h : Event.dly n ∈ scriptEvents ps s) : n ∈ timingParameters s.cfg := by
  induction ps generalizing s with
  | nil => cases h
  | cons p ps ih =>
    obtain hp | htail := List.mem_append.mp h
    · cases p with
      | request m =>
        obtain rfl : n = m := by simpa [primEvents] using hp
        exact hps n List.mem_cons_self
      | requestTier =>
        obtain rfl : n = tierDelay s.cfg s.tier := by simpa [primEvents] using hp
        exact tierDelay_mem s.cfg s.tier
      | _ => simp [primEvents] at hp
    · rw [← doPrim_cfg p s] at hps ⊢
      exact ih (fun m hm => hps m (List.mem_cons_of_mem p hm)) htail

theorem Timed.newEvents {ps : List Prim} {s t : State} (hps : Timed s.cfg ps) (h : runScript ps s = .next t)
    {n : Micros} (hn : Event.dly n ∈ newEvents s t) : n ∈ timingParameters s.cfg := by
  obtain ⟨pre, hpre, hevents⟩ := runScript_newEvents h
  exact (hps.of_prefix hpre).dly_mem (hevents ▸ hn)

theorem fail_timed (c : Cfg) (st : Status) : Timed c [.complete st] := by simp [Timed]

/-- An accepted word runs a timed sequence, legal or not. -/
theorem runAccepted_runs_timed (s : State) : ∃ ps, Timed s.cfg ps ∧ runAccepted s = runScript ps s := by
  unfold runAccepted
  split
  · rename_i i _
    obtain ⟨_, hfail⟩ | ⟨_, on, _, hlight⟩ | ⟨_, ps, hps, hrun⟩ := exec_cases i s
    · exact ⟨_, fail_timed _ _, hfail⟩
    · exact ⟨_, by simp [Timed], hlight⟩
    · exact ⟨ps, timed_of_ofTransfer hps, hrun⟩
  · exact ⟨_, fail_timed _ _, rfl⟩

/-- Settles O43: whatever the step is, and wherever it is cut, it runs a part of a timed sequence. -/
theorem delaysAreTheTimingParameters : Obligations.DelaysAreTheTimingParameters := by
  intro s t n h hn
  obtain ⟨_, rfl⟩ | ⟨_, _, rfl⟩ | ⟨rest, _, hresume⟩ | ⟨w, ws, _, _, hrun⟩ := step_next_cases h
  · simp [newEvents] at hn
  · simp [newEvents] at hn
  · have hloop := pollLoop_ofTransfer s.cfg rest
    have hrest := transfers_ofTransfer s.cfg rest
    have htimed : Timed s.cfg (pollLoop s.cfg rest ++ transfers s.cfg rest) :=
      timed_of_ofTransfer (by rw [List.all_append, hloop, hrest]; rfl)
    exact htimed.newEvents (s := clearDone s) hresume hn
  · obtain ⟨ps, hps, heq⟩ := runAccepted_runs_timed (accept w ws s)
    exact hps.newEvents (s := accept w ws s) (heq ▸ hrun) hn

/-! ### The backlight line -/

/-- A write of BL is an event where a micro-step made it. -/
theorem setBL_of_bl_mem {ps : List Prim} {s : State} {b : Bool} (h : Event.bl b ∈ scriptEvents ps s) :
    Prim.setBL b ∈ ps := by
  induction ps generalizing s with
  | nil => cases h
  | cons p ps ih =>
    obtain hp | htail := List.mem_append.mp h
    · cases p with
      | setBL c => simp_all [primEvents]
      | _ => simp [primEvents] at hp
    · exact List.mem_cons_of_mem p (ih htail)

/-- Only its own event writes BL (R14, R21). -/
theorem afterAll_bl {es : List Event} (h : ∀ b, Event.bl b ∉ es) (p : Pins) : (p.afterAll es).bl = p.bl := by
  induction es generalizing p with
  | nil => rfl
  | cons e es ih =>
    have htail := ih (fun b hb => h b (List.mem_cons_of_mem e hb)) (p.after e)
    cases e with
    | bl b => exact absurd List.mem_cons_self (h b)
    | _ => exact htail

theorem setBL_notMem_of_ofTransfer {c : Cfg} {ps : List Prim} (hps : ps.all (Prim.ofTransfer c) = true) (b : Bool) :
    Prim.setBL b ∉ ps :=
  fun hb => Bool.false_ne_true (List.all_eq_true.mp hps _ hb)

theorem exec_runs_without_setBL {i : Instr} (hi : ∀ on, i ≠ .backlight on) (s : State) :
    ∃ ps, (∀ b, Prim.setBL b ∉ ps) ∧ exec i s = runScript ps s := by
  obtain ⟨_, hfail⟩ | ⟨_, on, hlight, _⟩ | ⟨_, ps, hps, hrun⟩ := exec_cases i s
  · exact ⟨_, by simp, hfail⟩
  · exact absurd hlight (hi on)
  · exact ⟨ps, setBL_notMem_of_ofTransfer hps, hrun⟩

/-- Settles O48: every other operation runs a sequence without a write of BL, so none is among its events, from which the
pins follow. -/
theorem onlyBacklightWritesTheBacklightLine : Obligations.OnlyBacklightWritesTheBacklightLine := by
  intro s t i hi hu h
  obtain ⟨ps, hps, hexec⟩ := exec_runs_without_setBL hi s
  rw [hexec] at h
  obtain ⟨es, htrace, hpins, _⟩ := runScript_records hu h
  obtain ⟨pre, hpre, hevents⟩ := runScript_newEvents h
  have hnew : newEvents s t = es := by simp [newEvents, htrace]
  have hnone : ∀ b, Event.bl b ∉ newEvents s t := by
    rw [hevents]
    exact fun b hb => hps b (hpre.subset (setBL_of_bl_mem hb))
  exact ⟨hpins ▸ afterAll_bl (hnew ▸ hnone) s.pins, hnone⟩

end Sys2Proof.Machine
end

section
/-! Reset (R32, R200) and an idle LCDC whose host has no word to issue (R218). -/

namespace Sys2Proof.Machine

/-- Settles O32: these are the values of R32. -/
theorem resetLeavesTheBusIdle : Obligations.ResetLeavesTheBusIdle := fun _ => ⟨rfl, rfl, rfl, rfl, rfl, rfl, rfl⟩

/-- The forced fall of EN (R201), with its condition as the statements have it. -/
theorem forcedLatch_eq (p : Pins) : forcedLatch p = if p.en = true ∧ p.rw = false then [(p.rs, p.dout)] else [] := by
  cases hen : p.en <;> cases hrw : p.rw <;> simp [forcedLatch, hen, hrw]

/-- A due `rst` is all that its step does (R200; log 11). -/
theorem step_of_rst {s : State} (h : s.upset = some (0, .rst)) : step s = .next (applyReset s) := if_pos h

/-- Settles O36: the step is the reset, which writes LCDC's own fields and the latch log only. -/
theorem rstPutsEverythingAtItsResetValue : Obligations.RstPutsEverythingAtItsResetValue := by
  intro s hrst
  refine ⟨applyReset s, step_of_rst hrst, rfl, rfl, rfl, rfl, rfl, rfl, rfl, rfl, rfl, rfl, rfl, rfl, ?_⟩
  rw [applyReset_latched, forcedLatch_eq]

/-- Idle and without a word, LCDC lets `done` fall and does nothing else (log 4, log 13). -/
theorem advance_of_noWord {s : State} (hidle : s.seq = .idle) (hwords : s.words = []) :
    advance s = .next (clearDone s) := by
  simp [advance, hidle, hwords]

/-- Settles O12: nothing is out of turn, so the step is LCDC's own. -/
theorem idleWithoutWordStaysIdle : Obligations.IdleWithoutWordStaysIdle :=
  fun _ hs hwords => (step_of_calm hs.calm).trans (advance_of_noWord hs.idle hwords)

end Sys2Proof.Machine
end

section
/-! `rst` and a second `op_valid` that come after `n` more events (R201, R206): each event brings them nearer, and they
cut a sequence that ends in a completion exactly where these events have occurred. -/

namespace Sys2Proof.Machine

open Expect

/-! ### The action draws nearer with each event -/

/-- `s` with an out-of-turn action due after `n` more events (log 5). -/
def State.upsetAfter (s : State) (n : Nat) (v : Upset) : State := { s with upset := some (n, v) }

theorem emit_upsetAfter (e : Event) (s : State) (n : Nat) (v : Upset) :
    emit e (s.upsetAfter n v) = (emit e s).upsetAfter (n - 1) v := by
  cases n <;> rfl

theorem lineValue_upsetAfter (s : State) (n : Nat) (v : Upset) : lineValue (s.upsetAfter n v) = lineValue s :=
  lineValue_congr rfl rfl rfl rfl

theorem sample_upsetAfter (s : State) (n : Nat) (v : Upset) :
    sample (s.upsetAfter n v) = (sample s).upsetAfter (n - 1) v := by
  have hused : answerUsed (s.upsetAfter n v) = (answerUsed s).upsetAfter n v := by
    obtain ⟨hdin, hsamples⟩ := answerUsed_congr (s := s.upsetAfter n v) (t := s) rfl rfl rfl
    rw [answerUsed_eq, hdin, hsamples, answerUsed_eq s]
    rfl
  rw [sample, lineValue_upsetAfter, hused, emit_upsetAfter]
  rfl

/-- When the action comes does not change what a micro-step does, and each event brings it one nearer. -/
theorem doPrim_upsetAfter (p : Prim) (s : State) (n : Nat) (v : Upset) :
    doPrim p (s.upsetAfter n v) = (doPrim p s).upsetAfter (n - (primEvents p s).length) v := by
  cases p with
  | loadByte | loadTier | await | pollTest | complete => rfl
  | setRS | setEN | setRW | setBL | driveByte | driveHigh | driveLow | request | requestTier =>
    cases n <;> rfl
  | sampleByte | sampleHigh | sampleLow =>
    simp only [doPrim, sampleByte, sampleHigh, sampleLow, sample_upsetAfter, lineValue_upsetAfter]
    rfl

/-! ### One micro-step of a sequence -/

/-- Where a step ends at a micro-step: in the poll loop, at an exit test that finds the device busy (R142, R146). -/
def Prim.exit (p : Prim) (s : State) : Option Seq :=
  match p with
  | .pollTest rest => if stillBusy s then some (.polling rest) else none
  | _ => none

/-- What an out-of-turn action makes of a run that it cuts in `s` (R201, R206). -/
def interrupted (v : Upset) (s : State) : Result :=
  match v with
  | .rst => .next (applyReset s)
  | .opValid => .fault .opWhileBusy

/-- A due action comes before the next micro-step. -/
theorem runScript_cons_of_due (p : Prim) (ps : List Prim) (s : State) (v : Upset) :
    runScript (p :: ps) (s.upsetAfter 0 v) = interrupted v s := by
  cases v <;> rfl

theorem runScript_cons_of_exit {p : Prim} {s : State} {q : Seq} (ps : List Prim) (hnow : upsetNow s = none)
    (hexit : p.exit s = some q) : runScript (p :: ps) s = .next { s with seq := q } := by
  cases p with
  | pollTest rest =>
    obtain ⟨hbusy, rfl⟩ : stillBusy s = true ∧ .polling rest = q := by simpa [Prim.exit] using hexit
    simp [runScript, hnow, hbusy]
  | _ => cases hexit

theorem runScript_cons_of_goOn {p : Prim} {s : State} (ps : List Prim) (hnow : upsetNow s = none)
    (hexit : p.exit s = none) : runScript (p :: ps) s = runScript ps (doPrim p s) := by
  cases p with
  | pollTest rest =>
    have hready : stillBusy s = false := by simpa [Prim.exit] using hexit
    simp [runScript, hnow, hready]
  | _ => simp [runScript, hnow]

theorem exit_upsetAfter (p : Prim) (s : State) (n : Nat) (v : Upset) : p.exit (s.upsetAfter n v) = p.exit s := by
  cases p <;> rfl

/-! ### A sequence with the action to come -/

/-- A sequence only adds to the trace, whatever cuts it. -/
theorem runScript_trace_prefix {ps : List Prim} {s t : State} (h : runScript ps s = .next t) : s.trace <+: t.trace := by
  obtain ⟨pre, -, ⟨q, rfl⟩ | ⟨-, rfl⟩⟩ := runScript_end h <;>
    exact ⟨scriptEvents pre s, (runPrims_trace pre s).symm⟩

/-- The new events of a sequence are those of its first micro-step, then those of the rest. -/
theorem newEvents_cons {p : Prim} {ps : List Prim} {s u : State} (h : runScript ps (doPrim p s) = .next u) :
    newEvents s u = primEvents p s ++ newEvents (doPrim p s) u := by
  obtain ⟨es, htrace⟩ := runScript_trace_prefix h
  simp [newEvents, ← htrace, doPrim_trace]

/-- Where a step ends at a micro-step, nothing has been added. -/
theorem newEvents_withSeq (s : State) (q : Seq) : newEvents s { s with seq := q } = [] := by simp [newEvents]

/-- With nothing out of turn a sequence ends at its first micro-step, or that adds its events and the rest runs. -/
theorem runScript_cons_of_calm {p : Prim} {ps : List Prim} {s u : State} (hcalm : s.upset = none)
    (h : runScript (p :: ps) s = .next u) :
    (∃ q, p.exit s = some q ∧ u = { s with seq := q } ∧ newEvents s u = []) ∨
    (p.exit s = none ∧ runScript ps (doPrim p s) = .next u ∧
      newEvents s u = primEvents p s ++ newEvents (doPrim p s) u) := by
  have hnow := upsetNow_of_calm s hcalm
  cases hexit : p.exit s with
  | some q =>
    rw [runScript_cons_of_exit ps hnow hexit] at h
    obtain rfl := Host.Outcome.next.inj h
    exact .inl ⟨q, rfl, rfl, newEvents_withSeq s q⟩
  | none =>
    rw [runScript_cons_of_goOn ps hnow hexit] at h
    exact .inr ⟨rfl, h, newEvents_cons h⟩

theorem upsetNow_upsetAfter {n : Nat} (hn : 0 < n) (s : State) (v : Upset) : upsetNow (s.upsetAfter n v) = none := by
  cases n with
  | zero => cases hn
  | succ n => rfl

/-- An action that comes later than the events of a sequence leaves the run as it is, and is that much nearer after it. -/
theorem runScript_upsetAfter_of_late {ps : List Prim} {s u : State} {n : Nat} (v : Upset) (hcalm : s.upset = none)
    (h : runScript ps s = .next u) (hn : (newEvents s u).length < n) :
    runScript ps (s.upsetAfter n v) = .next (u.upsetAfter (n - (newEvents s u).length) v) := by
  induction ps generalizing s n with
  | nil =>
    obtain rfl := Host.Outcome.next.inj h
    have hnone : newEvents s s = [] := newEvents_withSeq s s.seq
    rw [hnone]
    rfl
  | cons p ps ih =>
    have hnow := upsetNow_upsetAfter (Nat.zero_lt_of_lt hn) s v
    obtain ⟨q, hexit, rfl, hnone⟩ | ⟨hexit, hrest, hevents⟩ := runScript_cons_of_calm hcalm h
    · rw [runScript_cons_of_exit ps hnow (by rwa [exit_upsetAfter]), hnone]
      rfl
    · rw [hevents, List.length_append] at hn ⊢
      rw [runScript_cons_of_goOn ps hnow (by rwa [exit_upsetAfter]), doPrim_upsetAfter,
        ih (doPrim_calm p hcalm) hrest (by omega), Nat.sub_sub]

/-- An action that comes within the events of a sequence that ends in a completion cuts it where just so many of them have
occurred. -/
theorem runScript_upsetAfter_of_within {qs : List Prim} {st : Status} {s u : State} {n : Nat} (v : Upset)
    (hcalm : s.upset = none) (h : runScript (qs ++ [.complete st]) s = .next u) (hn : n ≤ (newEvents s u).length) :
    ∃ pre, scriptEvents pre s = (newEvents s u).take n ∧
      runScript (qs ++ [.complete st]) (s.upsetAfter n v) = interrupted v (runPrims pre s) := by
  induction qs generalizing s n with
  | nil =>
    have hdone : newEvents s u = [] := by
      obtain rfl := Host.Outcome.next.inj ((failWith_of_calm hcalm st).symm.trans h)
      simp [newEvents]
    obtain rfl : n = 0 := by simpa [hdone] using hn
    exact ⟨[], rfl, runScript_cons_of_due _ [] s v⟩
  | cons p qs ih =>
    obtain rfl | hpos := Nat.eq_zero_or_pos n
    · exact ⟨[], rfl, runScript_cons_of_due p _ s v⟩
    obtain ⟨q, -, -, hnone⟩ | ⟨hexit, hrest, hevents⟩ := runScript_cons_of_calm hcalm h
    · rw [hnone, List.length_nil] at hn
      omega
    · have hone := primEvents_length_le p s
      rw [hevents, List.length_append] at hn
      obtain ⟨pre, htake, hcut⟩ := ih (n := n - (primEvents p s).length) (doPrim_calm p hcalm) hrest (by omega)
      refine ⟨p :: pre, ?_, ?_⟩
      · rw [scriptEvents, htake, hevents, List.take_append,
          List.take_of_length_le (l := primEvents p s) (hone.trans hpos)]
      · rw [List.cons_append, runScript_cons_of_goOn _ (upsetNow_upsetAfter hpos s v) (by rwa [exit_upsetAfter]),
          doPrim_upsetAfter, hcut]
        rfl

/-! ### What runs a sequence that ends in a completion -/

/-- In `s`, whatever is to come out of turn, `f` runs one sequence, which ends in a completion; `done` may fall before it. -/
def RunsToCompletion (f : State → Result) (s : State) : Prop :=
  ∃ qs st d, ∀ x, f { s with upset := x } = runScript (qs ++ [.complete st]) { s with done := d, upset := x }

theorem append_transfers_ends (ps : List Prim) (c : Cfg) (xs : List Xfer) :
    ∃ qs st, ps ++ transfers c xs = qs ++ [.complete st] := by
  induction xs generalizing ps with
  | nil => exact ⟨ps, .ok, rfl⟩
  | cons x rest ih =>
    rw [transfers, ← List.append_assoc]
    exact ih (ps ++ xfer c x rest)

theorem OpScript.ends {c : Cfg} {ps : List Prim} (h : OpScript c ps) : ∃ qs st, ps = qs ++ [.complete st] := by
  cases h with
  | fail st => exact ⟨[], st, rfl⟩
  | light on _ => exact ⟨[.setBL on], .ok, rfl⟩
  | send x => exact append_transfers_ends [] c [x]
  | initEight fs _ => exact append_transfers_ends _ c bringUp
  | initFour fs _ => exact append_transfers_ends _ c (cmd fs .short :: bringUp)

theorem exec_runsToCompletion (i : Instr) (s : State) : RunsToCompletion (exec i) s := by
  obtain ⟨ps, hops, hexec⟩ := exec_runs_opScript i s.cfg
  obtain ⟨qs, st, rfl⟩ := hops.ends
  exact ⟨qs, st, s.done, fun x => hexec { s with upset := x } rfl⟩

/-- In the poll a step runs the rest of the operation's sequence, whatever is to come: an `rst` that is due at the start of
the step is due at the first micro-step of the sequence too. -/
theorem step_of_polling {s : State} {rest : List Xfer} (hseq : s.seq = .polling rest) :
    step s = runScript (pollLoop s.cfg rest ++ transfers s.cfg rest) (clearDone s) := by
  by_cases hrst : s.upset = some (0, .rst)
  · obtain ⟨p, ps, hps⟩ : ∃ p ps, pollLoop s.cfg rest ++ transfers s.cfg rest = p :: ps :=
      List.exists_cons_of_ne_nil (by simp [pollLoop])
    have hdue : (clearDone s).upsetAfter 0 .rst = clearDone s := by simp [State.upsetAfter, clearDone, ← hrst]
    rw [hps, ← hdue, runScript_cons_of_due, step_of_rst hrst]
    rfl
  · have hadvance : step s = advance s := if_neg hrst
    rw [hadvance, advance, hseq]
    rfl

theorem step_runsToCompletion {s : State} {rest : List Xfer} (hseq : s.seq = .polling rest) :
    RunsToCompletion step s := by
  obtain ⟨qs, st, hqs⟩ := append_transfers_ends (pollLoop s.cfg rest) s.cfg rest
  refine ⟨qs, st, false, fun x => (step_of_polling (s := { s with upset := x }) hseq).trans ?_⟩
  rw [← hqs]
  rfl

theorem RunsToCompletion.cutByRst {f : State → Result} {s u : State} (hf : RunsToCompletion f s)
    (hcalm : s.upset = none) (h : f s = .next u) (n : Nat) : CutByRst f s u n := by
  obtain ⟨qs, st, d, hrun⟩ := hf
  have hs : runScript (qs ++ [.complete st]) { s with done := d } = .next u := (hrun s.upset).symm.trans h
  refine ⟨fun hn => ?_, fun hn => ?_⟩
  · obtain ⟨pre, hevents, hcut⟩ := runScript_upsetAfter_of_within (s := { s with done := d }) .rst hcalm hs hn
    obtain ⟨htrace, hpins, hlatched⟩ := runPrims_records pre { s with done := d }
    rw [hevents] at htrace hpins hlatched
    refine ⟨_, (hrun _).trans hcut, rfl, rfl, rfl, runPrims_cfg pre _, runPrims_host pre _, rfl, rfl, htrace, ?_⟩
    rw [applyReset_latched, hlatched, hpins, forcedLatch_eq]
    rfl
  · exact (hrun _).trans (runScript_upsetAfter_of_late (s := { s with done := d }) .rst hcalm hs hn)

theorem RunsToCompletion.faultByOpValid {f : State → Result} {s u : State} (hf : RunsToCompletion f s)
    (hcalm : s.upset = none) (h : f s = .next u) (n : Nat) : FaultByOpValid f s u n := by
  obtain ⟨qs, st, d, hrun⟩ := hf
  have hs : runScript (qs ++ [.complete st]) { s with done := d } = .next u := (hrun s.upset).symm.trans h
  refine ⟨fun hn => ?_, fun hn => ?_⟩
  · obtain ⟨pre, -, hcut⟩ := runScript_upsetAfter_of_within (s := { s with done := d }) .opValid hcalm hs hn
    exact (hrun _).trans hcut
  · exact (hrun _).trans (runScript_upsetAfter_of_late (s := { s with done := d }) .opValid hcalm hs hn)

/-- Settles O37: an operation and a step of its poll run one sequence, whatever is to come; `rst` cuts it where `n` of its
events have occurred, and else is `n` less its events away. -/
theorem rstCutsAnOperationBetweenTwoEvents : Obligations.RstCutsAnOperationBetweenTwoEvents :=
  fun s _ n hcalm => ⟨fun i h => (exec_runsToCompletion i s).cutByRst hcalm h n,
    fun _ hseq h => (step_runsToCompletion hseq).cutByRst hcalm h n⟩

/-- Settles O38: a second `op_valid` cuts the sequence where `rst` would, as a fault. -/
theorem secondOpValidWhileBusyIsAFault : Obligations.SecondOpValidWhileBusyIsAFault :=
  fun s _ n hcalm => ⟨fun i h => (exec_runsToCompletion i s).faultByOpValid hcalm h n,
    fun _ hseq h => (step_runsToCompletion hseq).faultByOpValid hcalm h n⟩

/-! ### Steps with any action to come -/

/-- Micro-steps do not change which action is to come, only how soon. -/
theorem runPrims_upset (ps : List Prim) (s : State) : (runPrims ps s).upset.map Prod.snd = s.upset.map Prod.snd := by
  induction ps generalizing s with
  | nil => rfl
  | cons p ps ih =>
    rw [runPrims_cons, ih]
    cases hu : s.upset with
    | none => rw [doPrim_calm p hu]
    | some due =>
      obtain ⟨n, v⟩ := due
      have hs : s.upsetAfter n v = s := by simp [State.upsetAfter, ← hu]
      rw [← hs, doPrim_upsetAfter]
      rfl

/-- A sequence stops only with a second `op_valid` to come where it starts. -/
theorem runScript_stops (ps : List Prim) (s : State) :
    (∃ t, runScript ps s = .next t) ∨
      (runScript ps s = .fault .opWhileBusy ∧ ∃ n, s.upset = some (n, .opValid)) := by
  obtain hnext | ⟨hfault, pre, -, -, hdue⟩ := runScript_answers ps s
  · exact .inl hnext
  · have hkind : s.upset.map Prod.snd = some .opValid := by rw [← runPrims_upset pre s, hdue]; rfl
    obtain ⟨⟨n, _⟩, hupset, rfl⟩ := Option.map_eq_some_iff.mp hkind
    exact .inr ⟨hfault, n, hupset⟩

/-- Settles O13: an idle LCDC stays idle, and every other step is `rst` or runs a sequence. -/
theorem stepStopsOnlyOnASecondOpValid : Obligations.StepStopsOnlyOnASecondOpValid := by
  intro s
  cases hseq : s.seq with
  | polling rest =>
    rw [step_of_polling hseq]
    exact runScript_stops _ (clearDone s)
  | idle =>
    by_cases hrst : s.upset = some (0, .rst)
    · exact .inl ⟨_, step_of_rst hrst⟩
    have hadvance : step s = advance s := if_neg hrst
    cases hwords : s.words with
    | nil => exact .inl ⟨clearDone s, hadvance.trans (advance_of_noWord hseq hwords)⟩
    | cons w ws =>
      obtain ⟨ps, hrun⟩ := runAccepted_is_script (accept w ws s)
      have hstep : step s = runScript ps (accept w ws s) := by simp [hadvance, advance, hseq, hwords, hrun]
      rw [hstep]
      exact runScript_stops ps (accept w ws s)

end Sys2Proof.Machine
end

section
/-! What every infinite run of R218 keeps, whatever the environment supplies on its way. -/

namespace Sys2Proof.Machine

theorem Supplied.cfg {s t : State} (h : Supplied s t) : t.cfg = s.cfg := by
  obtain ⟨_, _, _, rfl, _⟩ := h
  rfl

theorem Supplied.trace {s t : State} (h : Supplied s t) : t.trace = s.trace := by
  obtain ⟨_, _, _, rfl, _⟩ := h
  rfl

/-- What the environment supplies touches nothing that the invariant speaks of. -/
theorem Supplied.inv {s t : State} (h : Supplied s t) (hs : s.Inv) : t.Inv := by
  obtain ⟨_, _, _, rfl, _⟩ := h
  exact ⟨hs.legal, hs.enLow, hs.idleWrites, hs.pollReads, hs.fits, hs.noLight, hs.noRequest⟩

theorem Supplied.flag {s t : State} (h : Supplied s t) (hs : s.FlagOnlyInLoop) : t.FlagOnlyInLoop := by
  obtain ⟨_, _, _, rfl, _⟩ := h
  exact ⟨hs.idle, hs.polling⟩

/-- A step only adds to the trace, `rst` included (R31). -/
theorem step_trace_prefix {s t : State} (h : step s = .next t) : s.trace <+: t.trace := by
  obtain ⟨_, rfl⟩ | ⟨_, _, rfl⟩ | ⟨rest, _, hresume⟩ | ⟨w, ws, _, _, hrun⟩ := step_next_cases h
  · exact List.prefix_rfl
  · exact List.prefix_rfl
  · exact runScript_trace_prefix (s := clearDone s) hresume
  · obtain ⟨ps, hps⟩ := runAccepted_is_script (accept w ws s)
    exact runScript_trace_prefix (s := accept w ws s) (hps ▸ hrun)

/-- In an infinite run the invariant holds at reset, and every step keeps it after whatever the environment supplies. -/
theorem IsRun.keeps {c : Cfg} {f : Nat → State} (hc : c.wf = true) (hf : IsRun c f) (n : Nat) :
    (f n).Inv ∧ (f n).FlagOnlyInLoop ∧ (f n).cfg = c := by
  induction n with
  | zero =>
    rw [hf.reset]
    exact ⟨resetWith_inv hc, resetWith_flag c, rfl⟩
  | succ n ih =>
    obtain ⟨hinv, hflag, hcfg⟩ := ih
    obtain ⟨t, hsupplied, hstep⟩ := hf.step n
    obtain ⟨hinv', hflag'⟩ := everyStepKeepsTheInvariant t _ (hsupplied.inv hinv) hstep
    exact ⟨hinv', hflag' (hsupplied.flag hflag),
      (noStepChangesTheConfiguration t _ hstep).trans (hsupplied.cfg.trans hcfg)⟩

/-- A run that has ended well is idle, where the invariant has EN and RW low (R36). -/
theorem State.Inv.busIdle_of_endedWell {s : State} (hs : s.Inv) (hended : s.endedWell = true) :
    s.pins.en = false ∧ s.pins.rw = false := by
  obtain ⟨-, hready⟩ : s.words.isEmpty = true ∧ s.opReady = true := by simpa [State.endedWell] using hended
  exact ⟨hs.enLow, hs.idleWrites (of_decide_eq_true hready)⟩

/-- Settles O60: the invariant along the run, with what one step does to the trace and what a good end is. -/
theorem everyRunKeepsTheInvariant : Obligations.EveryRunKeepsTheInvariant := by
  intro c f hc hf n
  obtain ⟨hinv, hflag, hcfg⟩ := hf.keeps hc n
  obtain ⟨t, hsupplied, hstep⟩ := hf.step n
  exact ⟨hinv, hflag, hcfg, hsupplied.trace ▸ step_trace_prefix hstep, hinv.busIdle_of_endedWell⟩

/-- Settles O55: the step keeps the invariant, and a run that has ended well is idle. -/
theorem aWellEndedRunLeavesTheBusIdle : Obligations.AWellEndedRunLeavesTheBusIdle :=
  fun s t hs hstep hended => (everyStepKeepsTheInvariant s t hs hstep).1.busIdle_of_endedWell hended

end Sys2Proof.Machine
end

section
/-! A run for every infinite sequence of operation words (R218): a device that is ready at every status read lets each word
complete in the step that accepts it. -/

namespace Sys2Proof.Machine

open Expect

/-! ### A device that is ready at every status read -/

/-- The samples of a device that is ready at the first status read of each transfer; none where nothing is read (R140). -/
def readyAnswers (c : Cfg) (xs : List Xfer) : List Byte := if c.canRead then xs.flatMap fun _ => answers c 0 else []

/-- On a binding that can read such a device lets every transfer go on to the next one. -/
theorem sendAll_of_ready {s : State} (xs : List Xfer) (hs : s.CanSend)
    (hdin : s.din = xs.flatMap fun _ => answers s.cfg 0) : ∃ t, sendAll xs s = completed t ∧ t.din = [] := by
  induction xs generalizing s with
  | nil => exact ⟨s, rfl, hdin⟩
  | cons x rest ih =>
    rw [List.flatMap_cons] at hdin
    have hready : ¬ busyNext s := by
      rw [busyNext_of_answers hdin]
      decide
    rw [sendAll, if_neg hready]
    refine ih (sentReady_canSend _ _ _ hs) ?_
    rw [sentReady_cfg]
    exact (statusByte_of_answers hdin).2

theorem foldl_delayed_din (xs : List Xfer) (s : State) : (xs.foldl delayed s).din = s.din := by
  induction xs generalizing s with
  | nil => rfl
  | cons x rest ih => exact ih (delayed s x)

/-- On every binding such a device lets all transfers be sent in one step, up to the completion. -/
theorem transfers_complete {s : State} (xs : List Xfer) (hs : s.CanSend) (hdin : s.din = readyAnswers s.cfg xs) :
    ∃ t, runScript (transfers s.cfg xs) s = .next (completed t) ∧ t.din = [] := by
  cases hc : s.cfg.canRead with
  | false =>
    refine ⟨_, runScript_transfers_fixed xs hs hc, (foldl_delayed_din xs s).trans ?_⟩
    simpa [readyAnswers, hc] using hdin
  | true =>
    obtain ⟨t, hsent, hleft⟩ := sendAll_of_ready xs hs (by simpa [readyAnswers, hc] using hdin)
    exact ⟨t, hsent ▸ runScript_transfers_poll xs hs hc, hleft⟩

/-- An operation has completed, and the device's listed answers are used up. -/
structure State.Finished (t : State) : Prop where
  idle : t.seq = .idle
  done : t.done = true
  answered : t.din = []

theorem completed_finished {t : State} (h : t.din = []) : (completed t).Finished := ⟨rfl, rfl, h⟩

/-- `s` with the device's listed answers `vs`. -/
def State.answeredBy (s : State) (vs : List Byte) : State := { s with din := vs }

theorem State.CanSend.answeredBy {s : State} (hs : s.CanSend) (vs : List Byte) : (s.answeredBy vs).CanSend :=
  ⟨hs.enLow, hs.rwLow, hs.calm⟩

/-- INIT on either bus width: a preamble, then transfers (R130). -/
theorem preamble_transfers_finish {s : State} {ps : List Prim} {fs : Byte} (xs : List Xfer) (hs : s.CanSend)
    (hplain : ps.all Prim.plain = true)
    (heffect : ∀ vs, runPrims ps (s.answeredBy vs) = afterPreamble (s.answeredBy vs) fs) :
    ∃ vs t, runScript (ps ++ transfers s.cfg xs) (s.answeredBy vs) = .next t ∧ t.Finished := by
  have hready := hs.answeredBy (readyAnswers s.cfg xs)
  obtain ⟨t, hrun, hleft⟩ := transfers_complete xs (afterPreamble_canSend fs hready) rfl
  rw [← heffect, runPrims_cfg] at hrun
  exact ⟨_, _, (runScript_plain_append hplain _ hready.calm).trans hrun, completed_finished hleft⟩

/-- For every sequence of an operation there are answers of the device with which it completes in one step. -/
theorem OpScript.finishes {s : State} {ps : List Prim} (h : OpScript s.cfg ps) (hs : s.CanSend) :
    ∃ vs t, runScript ps (s.answeredBy vs) = .next t ∧ t.Finished := by
  have hcalm := (hs.answeredBy []).calm
  cases h with
  | fail st => exact ⟨[], _, failWith_of_calm hcalm st, rfl, rfl, rfl⟩
  | light on _ =>
    have hlit := failWith_of_calm (doPrim_calm (.setBL on) hcalm) .ok
    exact ⟨[], _, (runScript_plain_cons rfl _ hcalm).trans hlit, rfl, rfl, rfl⟩
  | send x =>
    obtain ⟨t, hrun, hleft⟩ := transfers_complete [x] (hs.answeredBy (readyAnswers s.cfg [x])) rfl
    exact ⟨_, _, hrun, completed_finished hleft⟩
  | initEight fs width =>
    exact preamble_transfers_finish _ hs (preamble8_plain _ fs) fun vs => preamble8_effect fs width (hs.answeredBy vs)
  | initFour fs width =>
    exact preamble_transfers_finish _ hs (preamble4_plain _ fs) fun vs => preamble4_effect fs width (hs.answeredBy vs)

/-- So there are for every accepted word, legal or not. -/
theorem runAccepted_finishes {s : State} (hs : s.CanSend) :
    ∃ vs t, runAccepted (s.answeredBy vs) = .next t ∧ t.Finished := by
  obtain ⟨ps, hps, hruns⟩ : ∃ ps, OpScript s.cfg ps ∧
      ∀ vs, runAccepted (s.answeredBy vs) = runScript ps (s.answeredBy vs) := by
    cases hdecode : decode s.opr with
    | ok i =>
      obtain ⟨ps, hps, hexec⟩ := exec_runs_opScript i s.cfg
      exact ⟨ps, hps, fun vs => by simp [runAccepted, State.answeredBy, hdecode, hexec]⟩
    | error e =>
      refine ⟨_, .fail .illegalOperation, fun vs => ?_⟩
      simp [runAccepted, State.answeredBy, hdecode, execIllegal, failWith]
  obtain ⟨vs, t, hrun, ht⟩ := hps.finishes hs
  exact ⟨vs, t, (hruns vs).trans hrun, ht⟩

/-! ### One word after the other -/

/-- Between two words of a run on the binding `c`: nothing is under way, and the environment has nothing listed. -/
structure State.AwaitsWord (c : Cfg) (s : State) : Prop where
  cfg : s.cfg = c
  inv : s.Inv
  idle : s.seq = .idle
  calm : s.upset = none
  host : s.host = []
  din : s.din = []

theorem resetWith_awaitsWord {c : Cfg} (hc : c.wf = true) : (State.resetWith c).AwaitsWord c :=
  ⟨rfl, resetWith_inv hc, rfl, rfl, rfl, rfl⟩

/-- An accepted word leaves `OPR` and the host's words as they are, and nothing is to come out of turn. -/
theorem runAccepted_frame {s t : State} (hcalm : s.upset = none) (h : runAccepted s = .next t) :
    t.opr = s.opr ∧ t.host = s.host ∧ t.upset = none := by
  obtain ⟨ps, hps⟩ := runAccepted_is_script s
  obtain ⟨pre, q, rfl⟩ := runScript_end_of_calm hcalm (hps ▸ h)
  exact ⟨runPrims_opr pre s, runPrims_host pre s, runPrims_calm pre hcalm⟩

/-- Whatever word the host decides on, with the answers it needs one step accepts and completes it. -/
theorem State.AwaitsWord.next_word {c : Cfg} {s : State} (hs : s.AwaitsWord c) (w : Word) :
    ∃ u, u.AwaitsWord c ∧ (∃ t, Supplied s t ∧ step t = .next u) ∧ u.opr = w ∧ u.done = true := by
  have hsend : (accept w [] s).CanSend := ⟨hs.inv.enLow, hs.inv.idleWrites hs.idle, hs.calm⟩
  obtain ⟨vs, u, hrun, hfinished⟩ := runAccepted_finishes hsend
  let t : State := { s with host := [w], din := vs }
  have hsupplied : Supplied s t := ⟨[w], vs, s.upset, by simp [t, hs.host, hs.din], .inl hs.calm⟩
  have hstep : step t = .next u :=
    (step_of_idle (s := t) (ws := []) hs.idle hs.calm (words_of_host rfl)).trans hrun
  obtain ⟨hopr, hhost, hcalm⟩ := runAccepted_frame (hsend.answeredBy vs).calm hrun
  have hcfg : u.cfg = c := (noStepChangesTheConfiguration t u hstep).trans hs.cfg
  have hinv := (everyStepKeepsTheInvariant t u (hsupplied.inv hs.inv) hstep).1
  exact ⟨u, ⟨hcfg, hinv, hfinished.idle, hcalm, hhost, hfinished.answered⟩, ⟨t, hsupplied, hstep⟩, hopr, hfinished.done⟩

/-- The run from `s₀` in which `next s w` follows the state `s` and the word `w`. -/
def wordByWord (s₀ : State) (next : State → Word → State) (ws : Nat → Word) : Nat → State
  | 0 => s₀
  | n + 1 => next (wordByWord s₀ next ws n) (ws n)

/-- Settles O59: from reset on, the host decides on one word before each step, and the device on the answers it needs. -/
theorem everyInfiniteSequenceOfWordsIsARun : Obligations.EveryInfiniteSequenceOfWordsIsARun := by
  intro c ws hc
  have : Nonempty State := ⟨State.reset⟩
  choose! next hawaits hnext hopr hdone using fun (s : State) (w : Word) (hs : s.AwaitsWord c) => hs.next_word w
  let f := wordByWord (State.resetWith c) next ws
  have hf (n : Nat) : (f n).AwaitsWord c := by
    induction n with
    | zero => exact resetWith_awaitsWord hc
    | succ n ih => exact hawaits (f n) (ws n) ih
  exact ⟨f, ⟨rfl, fun n => hnext (f n) (ws n) (hf n)⟩,
    fun n => ⟨hopr (f n) (ws n) (hf n), hdone (f n) (ws n) (hf n), (hf (n + 1)).idle⟩⟩

end Sys2Proof.Machine
end

section
/-! Least duration, events and enable pulses of the operations with fixed delays (R63, R166, R217). -/

namespace Sys2Proof.Machine

open Expect

/-! ### The sum of the delays and the number of enable pulses -/

theorem tMin_append (es fs : List Event) : tMin (es ++ fs) = tMin es + tMin fs := by simp [tMin]

theorem tMin_dly (n : Micros) : tMin [.dly n] = n.toNat := rfl

/-- The write part of a transfer asks for its pulses (R110, R112, R113). -/
theorem tMin_writeEvents (c : Cfg) (rs : Bool) (b : Byte) :
    tMin (writeEvents c rs b) = pulses c * c.tPulse.toNat := by
  cases hw : c.busWidth with
  | eight => simp [writeEvents, Expect.pulse, pulses, hw, tMin, Event.micros]
  | four =>
    simp [writeEvents, Expect.pulse, pulses, hw, tMin, Event.micros]
    omega

theorem enablePulses_writeEvents (c : Cfg) (rs : Bool) (b : Byte) : enablePulses (writeEvents c rs b) = pulses c := by
  cases hw : c.busWidth <;> simp [writeEvents, Expect.pulse, pulses, hw, enablePulses]

/-- The preamble asks for three pulses and its own three delays (R132, R133). -/
theorem tMin_preamble (c : Cfg) (fs : Byte) :
    tMin (preamble c fs) = 3 * c.tPulse.toNat + c.tInit1.toNat + c.tInit2.toNat + c.tInit3.toNat := by
  cases hw : c.busWidth <;> simp [preamble, preambleWrite, Expect.pulse, hw, tMin, Event.micros] <;> omega

theorem enablePulses_preamble (c : Cfg) (fs : Byte) : enablePulses (preamble c fs) = 3 := by
  cases hw : c.busWidth <;> simp [preamble, preambleWrite, Expect.pulse, hw, enablePulses]

/-- The events of a transfer with its fixed delay (R114, R141). -/
def sentEvents (c : Cfg) (x : Xfer) : List Event := writeEvents c x.rs x.byte ++ [.dly (settle c x.tier)]

theorem tMin_sentEvents (c : Cfg) (x : Xfer) :
    tMin (sentEvents c x) = pulses c * c.tPulse.toNat + (settle c x.tier).toNat := by
  rw [sentEvents, tMin_append, tMin_writeEvents, tMin_dly]

theorem sentEvents_length (c : Cfg) (x : Xfer) : (sentEvents c x).length = 2 + 4 * pulses c := by
  rw [sentEvents, List.length_append, writeEvents_length, List.length_singleton]
  omega

theorem enablePulses_sentEvents (c : Cfg) (x : Xfer) : enablePulses (sentEvents c x) = pulses c := by
  rw [sentEvents, enablePulses_append, enablePulses_writeEvents]
  rfl

theorem foldl_delayed_trace (xs : List Xfer) (s : State) :
    (xs.foldl delayed s).trace = s.trace ++ xs.flatMap (sentEvents s.cfg) := by
  induction xs generalizing s with
  | nil => exact (List.append_nil _).symm
  | cons x rest ih =>
    rw [List.foldl_cons, ih, List.flatMap_cons, ← List.append_assoc]
    simp [delayed, written, sentEvents]

/-! ### The operations -/

/-- The sum of the delays of `es`, their number and that of their enable pulses are those of the rules for `i` (R166,
R217). -/
def CountsOf (c : Cfg) (i : Instr) (es : List Event) : Prop :=
  tMin es = duration c i ∧ es.length = (eventCounts c i).1 ∧ enablePulses es = (eventCounts c i).2

theorem countsOf_transfer {c : Cfg} {i : Instr} {rs : Bool} {b : Byte} {t : Tier}
    (hi : transferOf c i = some (rs, b, t)) : CountsOf c i (sentEvents c ⟨rs, b, t⟩) := by
  have hduration : duration c i = pulses c * c.tPulse.toNat + (settle c t).toNat := by
    cases i with
    | init | backlight => cases hi
    | _ => simp only [duration, hi]
  have hcounts : eventCounts c i = (2 + 4 * pulses c, pulses c) := by
    cases i with
    | init | backlight => cases hi
    | _ => simp only [eventCounts, hi]
  rw [CountsOf, hduration, hcounts]
  exact ⟨tMin_sentEvents _ _, sentEvents_length _ _, enablePulses_sentEvents _ _⟩

theorem countsOf_init (c : Cfg) (n f : Bool) (fs : Byte) :
    CountsOf c (.init n f) (preamble c fs ++ (initTransfers c fs).flatMap (sentEvents c)) := by
  have hlength := preamble_length c fs
  have htMin := tMin_preamble c fs
  have hpulses := enablePulses_preamble c fs
  cases hw : c.busWidth with
  | eight =>
    simp [CountsOf, initTransfers, bringUp, cmd, tMin_append, tMin_sentEvents, sentEvents_length, enablePulses_append,
      enablePulses_sentEvents, duration, eventCounts, pulses, settle, hw, hlength, htMin, hpulses]
    omega
  | four =>
    simp [CountsOf, initTransfers, bringUp, cmd, tMin_append, tMin_sentEvents, sentEvents_length, enablePulses_append,
      enablePulses_sentEvents, duration, eventCounts, pulses, settle, hw, hlength, htMin, hpulses]
    omega

/-- An error completion has no event (R186). -/
theorem trace_of_failWith {s t : State} {st : Status} (hcalm : s.upset = none) (h : failWith st s = .next t) :
    t.trace = s.trace ++ [] := by
  obtain rfl := Host.Outcome.next.inj ((failWith_of_calm hcalm st).symm.trans h)
  exact (List.append_nil _).symm

/-- With fixed delays every operation adds events that the rules count. -/
theorem exec_fixed_countsOf {s t : State} {i : Instr} (hs : s.Ready) (hc : s.cfg.canRead = false) (hwf : s.cfg.wf = true)
    (h : exec i s = .next t) : ∃ es, t.trace = s.trace ++ es ∧ CountsOf s.cfg i es := by
  cases hi : transferOf s.cfg i with
  | some operands =>
    have hexec := (exec_of_transferOf hwf hi).trans (runScript_transfers_fixed _ hs.canSend hc)
    obtain rfl := Host.Outcome.next.inj (hexec.symm.trans h)
    refine ⟨_, (foldl_delayed_trace _ s).trans ?_, countsOf_transfer hi⟩
    rw [List.flatMap_singleton]
  | none =>
    cases i with
    | init n f =>
      obtain rfl := Host.Outcome.next.inj ((exec_init_fixed n f hs.canSend hc).symm.trans h)
      refine ⟨_, (foldl_delayed_trace _ _).trans ?_, countsOf_init s.cfg n f (Expect.functionSet s.cfg n f)⟩
      exact List.append_assoc _ _ _
    | backlight on =>
      cases hline : s.cfg.hasBacklight with
      | true =>
        obtain rfl := Host.Outcome.next.inj ((exec_backlight_of_line hs hline on).symm.trans h)
        exact ⟨[.bl on], rfl, rfl, by simp [eventCounts, hline], rfl⟩
      | false =>
        rw [exec_of_not_wf (by simp [Instr.wf, hline])] at h
        exact ⟨[], trace_of_failWith hs.calm h, rfl, by simp [eventCounts, hline], rfl⟩
    | pos row col =>
      have hout : s.cfg.rows ≤ row.toNat ∨ s.cfg.cols ≤ col.toNat := by
        by_contra hin
        rw [not_or, not_le, not_le] at hin
        simp [transferOf, hin] at hi
      rw [exec_pos_of_outOfRange hout] at h
      exact ⟨[], trace_of_failWith hs.calm h, by simp [CountsOf, duration, eventCounts, hi, tMin, enablePulses]⟩
    | _ => cases hi

/-- Settles O51: an operation is one transfer, INIT's preamble and transfers, the write of BL, or an error completion, and
the counts of each are sums over its parts. -/
theorem durationOfEveryOperationWithFixedDelays : Obligations.DurationOfEveryOperationWithFixedDelays := by
  intro s t i hs hc hwf h
  obtain ⟨es, htrace, hcounts⟩ := exec_fixed_countsOf hs hc hwf h
  have hnew : newEvents s t = es := by simp [newEvents, htrace]
  exact hnew ▸ hcounts

end Sys2Proof.Machine
end
